-- ==== Sys2Proof/Word.lean ====
section
/-! DEFINITION. The byte and the bit of R10, and nothing else: every element of every stream, buffer and frame is one byte (R60). -/

namespace Sys2Proof

/-- R10: a byte is an 8-bit unsigned integer, bit 7 the most significant. -/
abbrev Byte := BitVec 8

/-- R10: a bit is 0 or 1; as a byte it is 0x00 or 0x01. -/
def bitByte (b : Bool) : Byte := if b then 1 else 0

/-- A bit as a number, for the register words of R40. -/
def bitNat (b : Bool) : Nat := if b then 1 else 0

end Sys2Proof
end

