-- ==== Sys2Proof/Config.lean ====
section
/-! DEFINITION. What an implementation fixes: the wire constants of R6, the build parameters of R9, and the free values (93_implementation_defined, section 3). -/

namespace Sys2Proof

/-- R60: the three buffers, each an index space of its own (R70). -/
inductive BufferName where
  | txbuf
  | rxbuf
  | framebuf
deriving DecidableEq, Repr

namespace Config

/-! R6: the wire constants, each under its own name with the document's value (decision D2; log 1). -/

def FLAG : Byte := 0x5C
def ESC : Byte := 0x5D
def ESC_XOR : Byte := 0x20
def A_TX : Byte := 0x01
def A_RX : Byte := 0x03
def SET : Byte := 0x07
def DISC : Byte := 0x0A
def UA : Byte := 0x06
def RR0 : Byte := 0x01
def RR1 : Byte := 0x11
def REJ0 : Byte := 0x05
def REJ1 : Byte := 0x15
def I0 : Byte := 0x80
def I1 : Byte := 0xC0

/-- FREE VALUE (93 U11, U12: `any value`; logs 5 and 6): the byte that a read of a buffer location holding no
specified value yields. The second argument numbers the draw, the third is the index read. It has no body: nothing in
Lean can evaluate it, so a claim about it holds for every value. -/
opaque anyByte : BufferName → Nat → Nat → Byte

/-- FREE VALUE (log 8): where a host write of TXBUF at an index the buffer does not have lands, if it lands anywhere. The
first argument numbers the draw, the second is the index written. It has no body. -/
opaque strayWrite : Nat → Nat → Option Nat

end Config

/-- R9: the build-time parameters the document does not fix. State carries them as data that no step changes
(log 2), so that a statement about every state is one about every choice of parameters. TICK is used by no rule. -/
structure Params where
  /-- MAX_PAYLOAD, the largest payload length in bytes that WRITE accepts and READ delivers; at least 1 (decision D12;
  log 2). -/
  maxPayload : Nat
  /-- TRIES_W, the width of NUM_TRIES; RETRY is one bit wider. -/
  triesW : Nat
  /-- TIMER_W, the width of TIME_OUT and of the timer. -/
  timerW : Nat
  /-- CNT_W, the width of every statistics counter. -/
  cntW : Nat
deriving DecidableEq, Repr

/-- R9's column "value in this spec's examples" (log 2). -/
def Params.examples : Params := { maxPayload := 16, triesW := 8, timerW := 32, cntW := 32 }

/-- The constraints of R9 and decision D12: MAX_PAYLOAD and each width at least 1 (log 2). -/
def Params.ok (p : Params) : Bool := 1 ≤ p.maxPayload && 1 ≤ p.triesW && 1 ≤ p.timerW && 1 ≤ p.cntW

end Sys2Proof
end

