-- ==== Sys2Proof/Machine/State.lean ====
section
/-! DEFINITION. The state of one HDLCF instance (R20), the environment's part of it (R44, R63), the reasons a step can stop, and the state after reset (R45, R250). -/

namespace Sys2Proof.Machine

/-- R8, R21: the two roles; 0 is Initiator, 1 is Responder. -/
inductive Role where
  | initiator
  | responder
deriving DecidableEq, Repr

/-- R26: the states of the frame receiver FSM, in the document's order (codes 0 to 5). -/
inductive Fsm where
  | awaitFlag
  | awaitAddress
  | awaitControl
  | awaitBcc1
  | awaitTrailingFlag
  | done
deriving DecidableEq, Repr

/-- R27: the position of the engine within the host operation in progress (codes 0 to 5). -/
inductive Op where
  | idle
  | openWait
  | writeWait
  | readHeader
  | readBody
  | closeWait
deriving DecidableEq, Repr

/-- R39: the outcome of the last finished command (codes 0 to 4). -/
inductive Result where
  | none
  | ok
  | retriesExhausted
  | transportError
  | refused
deriving DecidableEq, Repr

/-- R26, R29: the receiver FSM and the two header bytes it records. -/
structure Receiver where
  /-- FSM -/
  fsm : Fsm
  /-- ADDR -/
  addr : Byte
  /-- CTRL -/
  ctrl : Byte
deriving DecidableEq, Repr

/-- R34 to R37: the body decoder's registers. -/
structure Body where
  /-- ESCP, escape pending. -/
  escp : Bool
  /-- BCCACC, the running exclusive or of the destuffed bytes. -/
  bccacc : Byte
  /-- RXCNT, the number of destuffed bytes stored (R118); R36's count of the bytes consumed is Body.consumed (log 17). -/
  rxcnt : Nat
  /-- RXOVF, the body is longer than MAX_PAYLOAD + 1 destuffed bytes. -/
  rxovf : Bool
deriving DecidableEq, Repr

/-- R42: the eight statistics counters. -/
structure Stats where
  framesSent : Nat
  framesRecv : Nat
  rejSent : Nat
  rejRecv : Nat
  timeouts : Nat
  escaped : Nat
  bytesSent : Nat
  bytesRecv : Nat
deriving DecidableEq, Repr

/-- R42, R45: all eight counters 0. -/
def Stats.zero : Stats :=
  { framesSent := 0, framesRecv := 0, rejSent := 0, rejRecv := 0,
    timeouts := 0, escaped := 0, bytesSent := 0, bytesRecv := 0 }

/-- R64 to R66: a buffer, as (index, byte) pairs with indices strictly rising; an unlisted index holds no value
(R45: "a model treats them as holding no value"). -/
abbrev Memory := List Host.Cell

/-- What a codec row hands to the operation that uses it (R111 to R120); the MODEL's own (log 9). -/
inductive CodecOut where
  | none
  /-- BCC1, BCC2, DESTUFF: one byte. -/
  | byte (b : Byte)
  /-- STUFF, ENC_CTRL: a byte sequence. -/
  | bytes (bs : List Byte)
  /-- ENC_INFO: the frame and the stuffed-byte count. -/
  | frame (bs : List Byte) (esc : Nat)
  /-- DEC_BODY at a closing FLAG: bodyOk (R119). -/
  | verdict (bodyOk : Bool)
  /-- DEC_INFO: address, sequence bit, payload (R120). -/
  | info (a : Byte) (s : Bool) (p : List Byte)
  /-- DEC_INFO: `ChecksumMismatch`. -/
  | checksumMismatch
  /-- DEC_INFO: Incomplete. -/
  | incomplete
deriving DecidableEq, Repr

/-- One move of the environment (R15, R63, R228; log 3). -/
inductive Input where
  /-- One instant: the `rst` and `xport_err` lines, bytes that reach the Transport, `rx_valid` (the Transport offers
  its first byte), one pulse of `tick`, and a host write of register CMD. -/
  | instant (rst xportErr : Bool) (arrive : List Byte) (rxValid tick : Bool) (cmd : Option Nat)
  /-- Host write of numbered register n (R40); n = 0 is the Cmd event (R99). -/
  | regWrite (n v : Nat)
  /-- Host read of numbered register n (R40). -/
  | regRead (n : Nat)
  /-- Host write of TXBUF[i] (R64). -/
  | txbufWrite (i : Nat) (b : Byte)
  /-- Host read of TXBUF[i] (R64). -/
  | txbufRead (i : Nat)
  /-- Host read of RXBUF[i] (R65). -/
  | rxbufRead (i : Nat)
  /-- The Transport takes the first byte of the TX stream (R62, `tx_ready`). -/
  | txTake
  /-- Bytes reach the Transport and the engine takes all it will take before anything else happens: the same RxByte
  events, in one move (log 15). -/
  | line (bs : List Byte)
deriving DecidableEq, Repr

/-- The events of the present instant that have not been taken yet (R231; log 3). -/
structure Lines where
  rst : Bool
  xportErr : Bool
  rxValid : Bool
  /-- The word of a CMD write taken at this instant. -/
  cmd : Option Nat
deriving DecidableEq, Repr

def Lines.clear : Lines := { rst := false, xportErr := false, rxValid := false, cmd := .none }

/-- The reasons the machine can stop: none. R220: "there is no fault state that stops the block". -/
inductive Fault
deriving DecidableEq, Repr

/-- The reasons for which an instruction has no meaning. -/
inductive Refusal where
  /-- Raised by an arm of `exec` whose instruction has no meaning yet. Safe: the machine stops. No arm of this model
  raises it. -/
  | notModelled (mnemonic : String)
deriving DecidableEq, Repr

/-- The state of one HDLCF instance. R20 lists the registers and buffers; R44 and R63 the streams and ports, R9 the
build parameters; inputs, codecOut, fresh and delivered are the model's own (logs 3, 5, 6, 9). -/
structure State where
  /-- CFG_ROLE (R21) -/
  cfgRole : Role
  /-- CFG_TRIES (R22) -/
  cfgTries : Nat
  /-- CFG_TIMEOUT (R23) -/
  cfgTimeout : Nat
  /-- ROLE, the latched copy (R24) -/
  role : Role
  /-- NUM_TRIES, the latched copy (R24) -/
  numTries : Nat
  /-- TIME_OUT, the latched copy (R24) -/
  timeOut : Nat
  /-- COLLECT (R24) -/
  collect : Bool
  /-- OPENF (R25) -/
  openf : Bool
  /-- FSM, ADDR, CTRL (R26, R29) -/
  rcv : Receiver
  /-- OP (R27) -/
  op : Op
  /-- TXBIT (R30) -/
  txbit : Bool
  /-- RXBIT (R31) -/
  rxbit : Bool
  /-- RETRY (R32) -/
  retry : Nat
  /-- TMR (R33) -/
  tmr : Nat
  /-- TARMED (R33) -/
  tarmed : Bool
  /-- ESCP, BCCACC, RXCNT, RXOVF (R34 to R37) -/
  body : Body
  /-- RESULT (R39) -/
  result : Result
  /-- TXLEN (R41) -/
  txlen : Nat
  /-- RXLEN (R41) -/
  rxlen : Nat
  /-- FRAMELEN (R41) -/
  framelen : Nat
  /-- the statistics counters (R42) -/
  stat : Stats
  /-- TXBUF (R64) -/
  txbuf : Memory
  /-- RXBUF (R65) -/
  rxbuf : Memory
  /-- FRAMEBUF (R66) -/
  framebuf : Memory
  /-- the RX stream: bytes the Transport holds that the engine has not taken (R44, R61) -/
  rx : List Byte
  /-- the TX stream: bytes pushed that the Transport has not taken (R44, R62) -/
  tx : List Byte
  /-- the `done` output of the last step (R63, R224) -/
  done : Bool
  /-- the `stats_valid` output of the last step (R63, R210) -/
  statsValid : Bool
  /-- the host's read data port (R63) -/
  rdata : Nat
  /-- the lines of the present instant not yet acted on (R228, R231) -/
  pend : Lines
  /-- the build parameters (R9) -/
  build : Params
  /-- the environment's moves still to come -/
  inputs : List Input
  /-- what a codec row hands to its caller -/
  codecOut : CodecOut
  /-- numbers the free values -/
  fresh : Nat
  /-- RXBUF holds what the last READ, which ended Ok, stored (R65, R267) -/
  delivered : Bool
deriving DecidableEq, Repr

/-- R45, R250: every register zero, the buffers holding no value, no output asserted. The streams are empty and the
environment has no move left (logs 3, 4); the build parameters are the spec's example values (log 2). -/
def State.reset : State :=
  { cfgRole := .initiator, cfgTries := 0, cfgTimeout := 0
    role := .initiator, numTries := 0, timeOut := 0, collect := false
    openf := false
    rcv := { fsm := .awaitFlag, addr := 0, ctrl := 0 }
    op := .idle
    txbit := false, rxbit := false
    retry := 0, tmr := 0, tarmed := false
    body := { escp := false, bccacc := 0, rxcnt := 0, rxovf := false }
    result := .none
    txlen := 0, rxlen := 0, framelen := 0
    stat := Stats.zero
    txbuf := [], rxbuf := [], framebuf := []
    rx := [], tx := []
    done := false, statsValid := false
    rdata := 0
    pend := Lines.clear
    build := Params.examples
    inputs := []
    codecOut := .none
    fresh := 0
    delivered := false }

end Sys2Proof.Machine
end

