-- ==== Sys2Proof/Machine/Operands.lean ====
section
/-! DEFINITION. The operands of the wire: control codes of a sequence bit (R13, R88), addresses by role (R90), the acceptable sets VA and EC of the receiver (R91, R137, R139). -/

namespace Sys2Proof.Machine

open Sys2Proof.Config

/-- R6, R13: RR(s). -/
def rrCode (s : Bool) : Byte := if s then RR1 else RR0

/-- R6, R13: REJ(s). -/
def rejCode (s : Bool) : Byte := if s then REJ1 else REJ0

/-- R6, R13: I(s). -/
def infoCode (s : Bool) : Byte := if s then I1 else I0

/-- R87: `isInfo(c)`. -/
def isInfo (c : Byte) : Bool := c == infoCode false || c == infoCode true

/-- R88: the sequence bit of an information code, its bit 6. -/
def seqOfInfo (c : Byte) : Bool := c.getLsbD 6

/-- R88: the sequence bit of an RR or REJ code, its bit 4. -/
def seqOfReply (c : Byte) : Bool := c.getLsbD 4

/-- R90: the address of SET, DISC and information frames. -/
def cmdAddr : Role → Byte
  | .initiator => A_TX
  | .responder => A_RX

/-- R90: the address of UA, RR and REJ. -/
def replyAddr : Role → Byte
  | .initiator => A_RX
  | .responder => A_TX

/-- R91, R137: VA, the same in every phase. -/
def validAddresses : List Byte := [A_TX, A_RX]

/-- R87: the nine control codes. -/
def controlCodes : List Byte := [SET, DISC, UA, RR0, RR1, REJ0, REJ1, I0, I1]

/-- R139: EC for each position of the engine. While OP is Idle no byte is taken (R61) and in ReadBody the FSM is not
used (R28), so there the set is empty. -/
def expectedControls (op : Op) (txbit rxbit : Bool) : List Byte :=
  match op with
  | .openWait => [SET, UA]
  | .writeWait => [rrCode txbit, rejCode txbit]
  | .readHeader => [infoCode rxbit]
  | .closeWait => [DISC, UA]
  | .idle => []
  | .readBody => []

/-- EC of the run in progress, re-evaluated at every step (R137). -/
def State.expected (s : State) : List Byte := expectedControls s.op s.txbit s.rxbit

/-- R28: the positions in which a received byte advances the FSM. -/
def Op.runsFsm : Op → Bool
  | .openWait => true
  | .writeWait => true
  | .readHeader => true
  | .closeWait => true
  | .idle => false
  | .readBody => false

/-- R33: the positions in which the timer is armed. -/
def Op.timed : Op → Bool
  | .openWait => true
  | .writeWait => true
  | .closeWait => true
  | .idle => false
  | .readHeader => false
  | .readBody => false

end Sys2Proof.Machine
end

