-- ==== Sys2Proof/Machine/Codec.lean ====
section
/-! DEFINITION. The frame codec and the FSM's transition as pure functions (R110 to R120, R130 to R136): the checksum generator, the stuffing encoder, the frame encoders, the body decoder's step and the whole-frame decoder. -/

namespace Sys2Proof.Machine

open Sys2Proof.Config

/-- R11, R110: `xor_fold`; 0x00 of the empty sequence. -/
def xorFold : List Byte → Byte
  | [] => 0
  | b :: bs => b ^^^ xorFold bs

/-- R111: BCC1(A, C). -/
def bcc1 (a c : Byte) : Byte := a ^^^ c

/-- R112: BCC2(P), over the unstuffed payload bytes. -/
def bcc2 (p : List Byte) : Byte := xorFold p

/-- R85: the two bytes that are stuffed. -/
def needsEscape (b : Byte) : Bool := b == FLAG || b == ESC

/-- R113: STUFF(b). -/
def stuff (b : Byte) : List Byte := if needsEscape b then [ESC, b ^^^ ESC_XOR] else [b]

/-- R113: `stuffSeq`. -/
def stuffSeq : List Byte → List Byte
  | [] => []
  | b :: bs => stuff b ++ stuffSeq bs

/-- R113: `escCount`. -/
def escCount : List Byte → Nat
  | [] => 0
  | b :: bs => (if needsEscape b then 1 else 0) + escCount bs

/-- R114: DESTUFF(x), the value of the byte that follows an ESC, whatever it is (decision D11); a FLAG there is not
passed to it (R118). -/
def destuff (x : Byte) : Byte := x ^^^ ESC_XOR

/-- R115: ENC_CTRL(A, C). -/
def encCtrl (a c : Byte) : List Byte := [FLAG, a, c, bcc1 a c, FLAG]

/-- R116: the frame of ENC_INFO(A, s, P), its first result. -/
def encInfo (a : Byte) (s : Bool) (p : List Byte) : List Byte :=
  [FLAG, a, infoCode s, bcc1 a (infoCode s)] ++ stuffSeq p ++ stuff (bcc2 p) ++ [FLAG]

/-- R116: the stuffed-byte count of ENC_INFO, its second result. -/
def encInfoEsc (p : List Byte) : Nat := escCount (p ++ [bcc2 p])

/-- R131 to R135, R140, R141: one transition of the receiver FSM on byte x, the tests in the order written. In Done
FSM_STEP is never applied (R130); there the model changes nothing (log 16). -/
def fsmNext (va ec : List Byte) (x : Byte) (r : Receiver) : Receiver :=
  match r.fsm with
  | .awaitFlag =>
    if x = FLAG then { r with fsm := .awaitAddress } else { r with fsm := .awaitFlag }
  | .awaitAddress =>
    if x ∈ va then { r with fsm := .awaitControl, addr := x }
    else if x = FLAG then { r with fsm := .awaitAddress } else { r with fsm := .awaitFlag }
  | .awaitControl =>
    if x ∈ ec then { r with fsm := .awaitBcc1, ctrl := x }
    else if x = FLAG then { r with fsm := .awaitAddress } else { r with fsm := .awaitFlag }
  | .awaitBcc1 =>
    if x = bcc1 r.addr r.ctrl then
      if isInfo r.ctrl then { r with fsm := .done } else { r with fsm := .awaitTrailingFlag }
    else if x = FLAG then { r with fsm := .awaitAddress } else { r with fsm := .awaitFlag }
  | .awaitTrailingFlag =>
    if x = FLAG then { r with fsm := .done } else { r with fsm := .awaitFlag }
  | .done => r

/-- R117: the body decoder's registers at its entry. -/
def Body.entry : Body := { escp := false, bccacc := 0, rxcnt := 0, rxovf := false }

/-- R118, `store(d)`: the registers after it. RXCNT stays at MAX_PAYLOAD + 1 (log 17). -/
def Body.store (maxPayload : Nat) (d : Byte) (b : Body) : Body :=
  if b.rxcnt ≤ maxPayload then { b with bccacc := b.bccacc ^^^ d, rxcnt := b.rxcnt + 1 }
  else { b with bccacc := b.bccacc ^^^ d, rxovf := true }

/-- R118: the destuffed byte that body byte x yields, if it yields one: after an ESC the byte destuffed; an ESC yields
none; a FLAG yields none, whatever ESCP is. -/
def Body.dataByte (x : Byte) (b : Body) : Option Byte :=
  if x = FLAG then none
  else if b.escp then some (destuff x)
  else if x = ESC then none
  else some x

/-- R118: the registers after body byte x; a FLAG leaves them as they are (R119: "State written: none here"). -/
def Body.step (maxPayload : Nat) (x : Byte) (b : Body) : Body :=
  if x = FLAG then b
  else if b.escp then { b.store maxPayload (destuff x) with escp := false }
  else if x = ESC then { b with escp := true }
  else b.store maxPayload x

/-- R118: whether a destuffed byte is stored in RXBUF, at index RXCNT. -/
def Body.storesAt (maxPayload : Nat) (b : Body) : Bool := b.rxcnt ≤ maxPayload

/-- R36: the destuffed bytes consumed so far, saturating at MAX_PAYLOAD + 2: those stored, which R118 counts up to
MAX_PAYLOAD + 1, and the one that found RXBUF full and set RXOVF (log 17). -/
def Body.consumed (b : Body) : Nat := b.rxcnt + bitNat b.rxovf

/-- R119: bodyOk. -/
def Body.ok (b : Body) : Bool := !b.escp && !b.rxovf && 1 ≤ b.rxcnt && b.bccacc == 0

/-- R120: the FSM part of DEC_INFO: the bytes after an accepted header, with the receiver's working copies. -/
def findHeader (va ec : List Byte) : List Byte → Receiver → Option (Receiver × List Byte)
  | [], _ => none
  | x :: xs, r =>
    let r' := fsmNext va ec x r
    if r'.fsm = .done then some (r', xs) else findHeader va ec xs r'

/-- R120: the body part of DEC_INFO: the registers at the closing FLAG and the destuffed bytes stored. -/
def runBody (maxPayload : Nat) : List Byte → Body → List Byte → Option (Body × List Byte)
  | [], _, _ => none
  | x :: xs, b, stored =>
    if x = FLAG then some (b, stored)
    else
      match b.dataByte x with
      | some d =>
        runBody maxPayload xs (b.step maxPayload x)
          (if b.storesAt maxPayload then stored ++ [d] else stored)
      | none => runBody maxPayload xs (b.step maxPayload x) stored

/-- R120: DEC_INFO(F), with EC = {I(0), I(1)}. -/
def decInfo (maxPayload : Nat) (f : List Byte) : CodecOut :=
  match findHeader validAddresses [infoCode false, infoCode true] f { fsm := .awaitFlag, addr := 0, ctrl := 0 } with
  | none => .incomplete
  | some (r, rest) =>
    match runBody maxPayload rest Body.entry [] with
    | none => .incomplete
    | some (b, stored) =>
      if b.ok then .info r.addr (seqOfInfo r.ctrl) (stored.take (b.rxcnt - 1)) else .checksumMismatch

end Sys2Proof.Machine
end

