-- ==== Sys2Proof/Syntax.lean ====
section
/-! DEFINITION. The syntax: one constructor per row of spec/opcode_table.json (36 rows), with the operands the row names. LAWS.json maps each constructor to its row's mnemonic. -/

namespace Sys2Proof

/-- R17: the block's operations, "the analogue of an instruction set". -/
inductive Instr where
  -- wire control bytes, frame byte 2 (R87)
  | set
  | disc
  | ua
  | rr0
  | rr1
  | rej0
  | rej1
  | i0
  | i1
  /-- RR(s), the family form of RR0 and RR1 (R88). -/
  | rr (s : Bool)
  /-- REJ(s), the family form of REJ0 and REJ1 (R88). -/
  | rej (s : Bool)
  /-- I(s), the family form of I0 and I1 (R88). -/
  | info (s : Bool)
  -- wire frames
  /-- CTRL_FRAME: `5C aa cc bb 5C` with address a and control code c (R81). -/
  | ctrlFrame (a c : Byte)
  /-- INFO_FRAME: address a, sequence bit s, payload P (R82). -/
  | infoFrame (a : Byte) (s : Bool) (p : List Byte)
  -- host command words, CMD[2:0] (R100)
  | cmdOpen
  | cmdWrite
  | cmdRead
  /-- CLOSE with its operand collectStats, CMD[3]. -/
  | cmdClose (collect : Bool)
  | cmdReserved0
  | cmdReserved5
  | cmdReserved6
  | cmdReserved7
  -- codec functions and operations (R111 to R120)
  | bcc1 (a c : Byte)
  | bcc2 (p : List Byte)
  | stuff (b : Byte)
  | destuff (x : Byte)
  | encCtrl (a c : Byte)
  | encInfo (a : Byte) (s : Bool) (p : List Byte)
  | decBody (x : Byte)
  | decInfo (f : List Byte)
  -- receiver FSM (R130): the byte, the valid addresses VA, the expected control codes EC
  | fsmStep (x : Byte) (va ec : List Byte)
  -- timer (R186, R187)
  | armTimer
  | disarmTimer
  -- input events (R228)
  | timeout
  | xportErr
  | reset
deriving DecidableEq, Repr

end Sys2Proof
end

