-- ==== Sys2Proof/WellFormed.lean ====
section
/-! DEFINITION. When an instruction's operands are ones the spec gives it, for given build parameters. -/

namespace Sys2Proof

open Sys2Proof.Machine

/-- R86: an address the wire defines. -/
def addressOk (a : Byte) : Bool := a ∈ validAddresses

/-- R81, R87: a control code that a control frame may carry. -/
def controlCodeOk (c : Byte) : Bool := c ∈ controlCodes && !isInfo c

/-- R112, R116: a payload of 0 to MAX_PAYLOAD bytes. -/
def payloadOk (p : Params) (bs : List Byte) : Bool := bs.length ≤ p.maxPayload

/-- R137: EC is a set of one or two of the nine control codes. -/
def expectedOk (ec : List Byte) : Bool :=
  (ec.length == 1 || ec.length == 2) && ec.all (fun c => c ∈ controlCodes) && decide ec.Nodup

/-- The operand rules of each row. -/
def Instr.wellFormed (p : Params) : Instr → Bool
  | .set => true
  | .disc => true
  | .ua => true
  | .rr0 => true
  | .rr1 => true
  | .rej0 => true
  | .rej1 => true
  | .i0 => true
  | .i1 => true
  | .rr _ => true
  | .rej _ => true
  | .info _ => true
  | .ctrlFrame a c => addressOk a && controlCodeOk c
  | .infoFrame a _ bs => addressOk a && payloadOk p bs
  | .cmdOpen => true
  | .cmdWrite => true
  | .cmdRead => true
  | .cmdClose _ => true
  | .cmdReserved0 => true
  | .cmdReserved5 => true
  | .cmdReserved6 => true
  | .cmdReserved7 => true
  | .bcc1 _ _ => true
  | .bcc2 bs => payloadOk p bs
  | .stuff _ => true
  | .destuff x => x != Config.FLAG
  | .encCtrl a c => addressOk a && controlCodeOk c
  | .encInfo a _ bs => addressOk a && payloadOk p bs
  | .decBody _ => true
  | .decInfo _ => true
  | .fsmStep _ va ec => va == validAddresses && expectedOk ec
  | .armTimer => true
  | .disarmTimer => true
  | .timeout => true
  | .xportErr => true
  | .reset => true

end Sys2Proof
end

