-- ==== Sys2Proof/Decode.lean ====
section
/-! DEFINITION. The decoder, total on any bytes and rejecting by name, and the encoder. The block has three encodings: the wire control byte (R87), the wire frame (R81, R82) and the host command word (R100); the rows without a bit pattern have no encoding. -/

namespace Sys2Proof

open Sys2Proof.Config Sys2Proof.Machine

/-- A bit pattern, with the place it stands in: the three places have overlapping values (0x01 is RR(0) on the wire and
OPEN in CMD), so the place is part of the encoding (R17, R98). -/
inductive Encoded where
  /-- byte 2 of a frame -/
  | control (c : Byte)
  /-- a byte sequence on the line -/
  | frame (bs : List Byte)
  /-- a word written to register CMD -/
  | command (w : Nat)
deriving DecidableEq, Repr

/-- Why bytes are no instruction. -/
inductive DecodeError where
  /-- R95: one of the 247 control bytes the document does not define. -/
  | undefinedControl (c : Byte)
  /-- R96: one of the 254 bytes that are no address. -/
  | undefinedAddress (a : Byte)
  /-- R80: a frame begins with FLAG. -/
  | noOpeningFlag
  /-- R81: the fifth byte of a control frame is FLAG. -/
  | noClosingFlag
  /-- R92: byte 3 is not the exclusive or of bytes 1 and 2. -/
  | badBcc1
  /-- R97: ESC before the closing FLAG. -/
  | danglingEscape
  /-- R97: ESC before a byte other than 0x7C and 0x7D. -/
  | badEscape (x : Byte)
  /-- R97: a body with no byte before the closing FLAG. -/
  | missingBcc2
  /-- R94: the last data byte is not the exclusive or of the others. -/
  | badBcc2
  /-- The bytes end inside the frame. -/
  | truncated
  /-- Bytes follow the frame. -/
  | trailingBytes
deriving DecidableEq, Repr

/-- R87: the wire control byte. -/
def decodeControl (c : Byte) : Except DecodeError Instr :=
  if c = SET then .ok .set
  else if c = DISC then .ok .disc
  else if c = UA then .ok .ua
  else if c = RR0 then .ok .rr0
  else if c = RR1 then .ok .rr1
  else if c = REJ0 then .ok .rej0
  else if c = REJ1 then .ok .rej1
  else if c = I0 then .ok .i0
  else if c = I1 then .ok .i1
  else .error (.undefinedControl c)

/-- R99, R100: the command word: CMD[2:0] is the code, CMD[3] is read by CLOSE and ignored by the other commands, the
bits above are ignored (93 U9). -/
def decodeCommand (w : Nat) : Instr :=
  if w % 8 = 1 then .cmdOpen
  else if w % 8 = 2 then .cmdWrite
  else if w % 8 = 3 then .cmdRead
  else if w % 8 = 4 then .cmdClose (w / 8 % 2 == 1)
  else if w % 8 = 5 then .cmdReserved5
  else if w % 8 = 6 then .cmdReserved6
  else if w % 8 = 7 then .cmdReserved7
  else .cmdReserved0

/-- R85: the data bytes of a body up to its closing FLAG, and what follows; `esc` says that the byte before was an ESC.
Only the encodings of R85 are taken (log 23). -/
def destuffBody : Bool → List Byte → Except DecodeError (List Byte × List Byte)
  | _, [] => .error .truncated
  | false, x :: xs =>
    if x = FLAG then .ok ([], xs)
    else if x = ESC then destuffBody true xs
    else
      match destuffBody false xs with
      | .ok (data, rest) => .ok (x :: data, rest)
      | .error e => .error e
  | true, x :: xs =>
    if x = FLAG then .error .danglingEscape
    else if needsEscape (x ^^^ ESC_XOR) then
      match destuffBody false xs with
      | .ok (data, rest) => .ok ((x ^^^ ESC_XOR) :: data, rest)
      | .error e => .error e
    else .error (.badEscape x)

/-- R82, R94: the data bytes of a body split into the payload and BCC2, its last byte. -/
def splitBody (data : List Byte) : Except DecodeError (List Byte) :=
  match data.getLast? with
  | none => .error .missingBcc2
  | some b => if bcc2 data.dropLast = b then .ok data.dropLast else .error .badBcc2

/-- R80 to R82: one whole frame from the front of a byte sequence, and the bytes after it. -/
def decodeFrame (bs : List Byte) : Except DecodeError (Instr × List Byte) :=
  match bs with
  | f :: a :: c :: b :: rest =>
    if f ≠ FLAG then .error .noOpeningFlag
    else if a ∉ validAddresses then .error (.undefinedAddress a)
    else if c ∉ controlCodes then .error (.undefinedControl c)
    else if b ≠ bcc1 a c then .error .badBcc1
    else if isInfo c then
      match destuffBody false rest with
      | .error e => .error e
      | .ok (data, tail) =>
        match splitBody data with
        | .error e => .error e
        | .ok p => .ok (.infoFrame a (seqOfInfo c) p, tail)
    else
      match rest with
      | [] => .error .truncated
      | g :: tail => if g = FLAG then .ok (.ctrlFrame a c, tail) else .error .noClosingFlag
  | _ => .error .truncated

/-- The decoder. -/
def decode : Encoded → Except DecodeError Instr
  | .control c => decodeControl c
  | .command w => .ok (decodeCommand w)
  | .frame bs =>
    match decodeFrame bs with
    | .error e => .error e
    | .ok (i, []) => .ok i
    | .ok (_, _ :: _) => .error .trailingBytes

/-! ## The encoder -/

/-- The bit pattern of an instruction, from R81, R82, R87, R88 and R100; none for the rows the table gives none
("internal operation, no bit pattern"). Bits that a command ignores are 0. -/
def encode : Instr → Option Encoded
  | .set => some (.control SET)
  | .disc => some (.control DISC)
  | .ua => some (.control UA)
  | .rr0 => some (.control RR0)
  | .rr1 => some (.control RR1)
  | .rej0 => some (.control REJ0)
  | .rej1 => some (.control REJ1)
  | .i0 => some (.control I0)
  | .i1 => some (.control I1)
  | .rr s => some (.control (RR0 ||| (bitByte s <<< 4)))
  | .rej s => some (.control (REJ0 ||| (bitByte s <<< 4)))
  | .info s => some (.control (I0 ||| (bitByte s <<< 6)))
  | .ctrlFrame a c => some (.frame [FLAG, a, c, a ^^^ c, FLAG])
  | .infoFrame a s p =>
    some (.frame ([FLAG, a, I0 ||| (bitByte s <<< 6), a ^^^ (I0 ||| (bitByte s <<< 6))]
      ++ stuffSeq (p ++ [bcc2 p]) ++ [FLAG]))
  | .cmdOpen => some (.command 1)
  | .cmdWrite => some (.command 2)
  | .cmdRead => some (.command 3)
  | .cmdClose collect => some (.command (4 + 8 * bitNat collect))
  | .cmdReserved0 => some (.command 0)
  | .cmdReserved5 => some (.command 5)
  | .cmdReserved6 => some (.command 6)
  | .cmdReserved7 => some (.command 7)
  | .bcc1 _ _ => none
  | .bcc2 _ => none
  | .stuff _ => none
  | .destuff _ => none
  | .encCtrl _ _ => none
  | .encInfo _ _ _ => none
  | .decBody _ => none
  | .decInfo _ => none
  | .fsmStep _ _ _ => none
  | .armTimer => none
  | .disarmTimer => none
  | .timeout => none
  | .xportErr => none
  | .reset => none

/-- R88: the family forms RR(s), REJ(s), I(s) are other spellings of the six specific codes, which is how the decoder
reads their words (log 14). -/
def Instr.specific : Instr → Instr
  | .rr s => if s then .rr1 else .rr0
  | .rej s => if s then .rej1 else .rej0
  | .info s => if s then .i1 else .i0
  | i => i

/-! ## Words numbered as spec/opcode_table.json numbers them -/

/-- The n bytes of a word, the least significant first. -/
def wordBytes : Nat → Nat → List Byte
  | 0, _ => []
  | n + 1, w => BitVec.ofNat 8 w :: wordBytes n (w / 256)

/-- The place a table word of nbits bits stands in (log 21): 8 bits are a wire control byte where R87 defines one and a
command word otherwise; up to 32 bits are a command word (R40: a register is a word of at least 32 bits); more are the
bytes of a frame. -/
def tablePlace (nbits w : Nat) : Encoded :=
  if nbits ≤ 8 then
    match decodeControl (BitVec.ofNat 8 w) with
    | .ok _ => .control (BitVec.ofNat 8 w)
    | .error _ => .command w
  else if nbits ≤ 32 then .command w
  else .frame (wordBytes (nbits / 8) w)

/-- The instruction the decoder reads from a table word. The bytes above nbits are 0; those behind a whole frame are not
part of it. -/
def decodeTableWord (nbits w : Nat) : Option Instr :=
  match tablePlace nbits w with
  | .frame bs =>
    match decodeFrame bs with
    | .ok (i, _) => some i
    | .error _ => none
  | e =>
    match decode e with
    | .ok i => some i
    | .error _ => none

end Sys2Proof
end

