-- ==== Sys2Proof/Machine/Ops.lean ====
section
/-! DEFINITION. The named operations over buffers, streams, registers and the timer, and the one way an operation ends (R224), which is how every error that reaches the host is taken (R233). -/

namespace Sys2Proof.Machine

open Sys2Proof.Config

/-! ## Buffers (R12: MemRead and MemWrite, one byte) -/

/-- The byte at an index, if it holds a value. -/
def Memory.read : Memory → Nat → Option Byte
  | [], _ => none
  | (j, b) :: m, i => if i = j then some b else Memory.read m i

/-- The buffer after a write of one byte; indices stay strictly rising. -/
def Memory.write : Memory → Nat → Byte → Memory
  | [], i, b => [(i, b)]
  | (j, c) :: m, i, b =>
    if i < j then (i, b) :: (j, c) :: m
    else if i = j then (i, b) :: m
    else (j, c) :: Memory.write m i b

/-- The canonical form: indices strictly rising. An unlisted index holds no value, so no entry equals what an unlisted
index reads as. -/
def Memory.wf : Memory → Bool
  | [] => true
  | [_] => true
  | (i, _) :: (j, b) :: m => i < j && Memory.wf ((j, b) :: m)

/-- Every listed index lies below n. -/
def Memory.below (n : Nat) (m : Memory) : Bool := m.all (fun c => c.1 < n)

/-- Consecutive writes from index i. -/
def Memory.writeList : Memory → Nat → List Byte → Memory
  | m, _, [] => m
  | m, i, b :: bs => Memory.writeList (Memory.write m i b) (i + 1) bs

/-- The engine's and the host's read of index i: a location that holds no value yields a free value (log 5). -/
def Memory.readAny (name : BufferName) (draw : Nat) (m : Memory) (i : Nat) : Byte :=
  (m.read i).getD (anyByte name draw i)

/-- n consecutive reads from index i. -/
def Memory.readList (name : BufferName) (draw : Nat) (m : Memory) : Nat → Nat → List Byte
  | _, 0 => []
  | i, n + 1 => m.readAny name draw i :: Memory.readList name draw m (i + 1) n

/-! ## Counters (R209) -/

/-- R209: addition modulo 2^CNT_W. -/
def State.bumped (s : State) (c k : Nat) : Nat := (c + k) % 2 ^ s.build.cntW

/-- R208: one byte taken. -/
def State.countReceived (s : State) : State :=
  { s with stat := { s.stat with bytesRecv := s.bumped s.stat.bytesRecv 1 } }

/-- R205: one Timeout. -/
def State.countTimeout (s : State) : State :=
  { s with stat := { s.stat with timeouts := s.bumped s.stat.timeouts 1 } }

/-- R204: one accepted REJ(TXBIT). -/
def State.countRejReceived (s : State) : State :=
  { s with stat := { s.stat with rejRecv := s.bumped s.stat.rejRecv 1 } }

/-- R203: one REJ sent. -/
def State.countRejSent (s : State) : State :=
  { s with stat := { s.stat with rejSent := s.bumped s.stat.rejSent 1 } }

/-- R201: one acknowledged frame. -/
def State.countFrameSent (s : State) : State :=
  { s with stat := { s.stat with framesSent := s.bumped s.stat.framesSent 1 } }

/-- R202: one accepted body. -/
def State.countFrameReceived (s : State) : State :=
  { s with stat := { s.stat with framesRecv := s.bumped s.stat.framesRecv 1 } }

/-- R206: the stuffed bytes of one encoding. -/
def State.countEscaped (k : Nat) (s : State) : State :=
  { s with stat := { s.stat with escaped := s.bumped s.stat.escaped k } }

/-! ## Streams (R61, R62) -/

/-- R62, R207: TxFrame(s): the bytes appended in order, each counted. -/
def State.txFrame (bs : List Byte) (s : State) : State :=
  { s with tx := s.tx ++ bs, stat := { s.stat with bytesSent := s.bumped s.stat.bytesSent bs.length } }

/-- R62: TxPush(b). -/
def State.txPush (b : Byte) (s : State) : State := s.txFrame [b]

/-! ## FSM runs and the timer (R138, R186, R187) -/

/-- R138: a run of the FSM starts; ADDR and CTRL are not cleared. -/
def State.startRun (s : State) : State := { s with rcv := { s.rcv with fsm := .awaitFlag } }

/-- R186: ArmTimer(). -/
def State.armTimer (s : State) : State := { s with tmr := s.timeOut, tarmed := true }

/-- R187: DisarmTimer(); TMR keeps its value. -/
def State.disarmTimer (s : State) : State := { s with tarmed := false }

/-- R185: one pulse of `tick`. The pulse that brings TMR to 0 makes the Timeout event due; TARMED falls in the step that
takes it (R231, decision D23; log 18). -/
def State.tick (s : State) : State := if s.tarmed then { s with tmr := s.tmr - 1 } else s

/-- R32, R188: RETRY <- RETRY + 1, in TRIES_W + 1 bits (log 24). -/
def State.bumpRetry (s : State) : State := { s with retry := (s.retry + 1) % 2 ^ (s.build.triesW + 1) }

/-! ## How an operation ends (R224, R233): the one place where an error, or success, reaches the host -/

/-- R224: finish(r). Nothing is stacked; FSM, ADDR, CTRL, RETRY, TMR and the body decoder's registers keep what they
held, and there is no return operation (R234). -/
def State.finish (r : Result) (s : State) : State :=
  { s with tarmed := false, op := .idle, result := r, done := true }

/-- R210: the `stats_valid` pulse of a CLOSE with COLLECT = 1. -/
def State.reportStats (s : State) : State := if s.collect then { s with statsValid := true } else s

/-- R228: `done` and `stats_valid` are outputs of one step (log 11). -/
def State.dropPulses (s : State) : State := { s with done := false, statsValid := false }

/-! ## The FSM and the body decoder on the state's registers (R130, R117, R118) -/

/-- R130: FSM_STEP(x, VA, EC): it writes FSM and possibly ADDR or CTRL, and nothing else. -/
def State.fsmStep (x : Byte) (va ec : List Byte) (s : State) : State :=
  { s with rcv := fsmNext va ec x s.rcv }

/-- R117: DEC_BODY entry. -/
def State.enterBody (s : State) : State := { s with body := Body.entry, op := .readBody }

/-- R118: the registers and RXBUF after body byte x. -/
def State.bodyStep (x : Byte) (s : State) : State :=
  { s with
    body := s.body.step s.build.maxPayload x
    rxbuf :=
      match s.body.dataByte x with
      | some d => if s.body.storesAt s.build.maxPayload then s.rxbuf.write s.body.rxcnt d else s.rxbuf
      | none => s.rxbuf }

end Sys2Proof.Machine
end

