-- ==== Sys2Proof/Machine/Flags.lean ====
section
/-! DEFINITION. The conditions of the block: BUSY, the codes of the STATUS word (R26, R27, R39, R40), the retry compare (R188), the refusing conditions of the commands (R229), and when an event is enabled (R228). -/

namespace Sys2Proof.Machine

/-- R21: 0 Initiator, 1 Responder. -/
def Role.code : Role → Nat
  | .initiator => 0
  | .responder => 1

/-- R26. -/
def Fsm.code : Fsm → Nat
  | .awaitFlag => 0
  | .awaitAddress => 1
  | .awaitControl => 2
  | .awaitBcc1 => 3
  | .awaitTrailingFlag => 4
  | .done => 5

/-- R27. -/
def Op.code : Op → Nat
  | .idle => 0
  | .openWait => 1
  | .writeWait => 2
  | .readHeader => 3
  | .readBody => 4
  | .closeWait => 5

/-- R39. -/
def Result.code : Result → Nat
  | .none => 0
  | .ok => 1
  | .retriesExhausted => 2
  | .transportError => 3
  | .refused => 4

/-- R27: BUSY is `OP != Idle`. -/
def State.busy (s : State) : Bool := s.op != .idle

/-- R40: the STATUS word, each field at its bit. -/
def State.statusWord (s : State) : Nat :=
  bitNat s.openf + 2 * bitNat s.busy + 2 ^ 2 * s.op.code + 2 ^ 5 * s.rcv.fsm.code + 2 ^ 8 * bitNat s.txbit
    + 2 ^ 9 * bitNat s.rxbit + 2 ^ 10 * bitNat s.tarmed + 2 ^ 11 * bitNat s.body.escp + 2 ^ 12 * bitNat s.body.rxovf
    + 2 ^ 13 * s.role.code + 2 ^ 14 * bitNat s.collect

/-- R188: the retry compare, as unsigned integers. -/
def State.exhausted (s : State) : Bool := s.numTries < s.retry

/-- R151: OPEN is refused. -/
def State.openRefused (s : State) : Bool := s.openf || s.cfgTries == 0 || s.cfgTimeout == 0

/-- R171: WRITE is refused. -/
def State.writeRefused (s : State) : Bool := !s.openf || s.build.maxPayload < s.txlen

/-- R178: READ is refused. -/
def State.readRefused (s : State) : Bool := !s.openf

/-- R156: CLOSE is refused. -/
def State.closeRefused (s : State) : Bool := !s.openf

/-- R61, R63: `rx_ready`: the engine takes a byte only while OP is not Idle. -/
def State.rxReady (s : State) : Bool := s.busy

/-- R185, R231 (decision D23): the Timeout event is due (log 18). -/
def State.timeoutDue (s : State) : Bool := s.tarmed && s.tmr == 0

end Sys2Proof.Machine
end

