-- ==== Sys2Proof/Machine/CodecOps.lean ====
section
/-! DEFINITION. The meanings of the codec rows, of FSM_STEP and of the two timer rows (R111 to R120, R130, R186, R187). A codec function writes no register of the block; its value goes to codecOut, where the operation that used it finds it (log 9). -/

namespace Sys2Proof.Machine

/-- A codec function hands its value over and writes nothing else ("State written: none"). -/
def State.handOver (o : CodecOut) (s : State) : State := { s with codecOut := o }

/-- BCC1 (R111). -/
def execBcc1 (a c : Byte) (s : State) : Host.Outcome State Fault Refusal := .next (s.handOver (.byte (bcc1 a c)))

/-- BCC2 (R112). On a payload longer than MAX_PAYLOAD, no operand of R112, it is the same formula, a DESIGN CHOICE
(log 30). -/
def execBcc2 (p : List Byte) (s : State) : Host.Outcome State Fault Refusal := .next (s.handOver (.byte (bcc2 p)))

/-- STUFF (R113). -/
def execStuff (b : Byte) (s : State) : Host.Outcome State Fault Refusal := .next (s.handOver (.bytes (stuff b)))

/-- DESTUFF (R114). On FLAG, no operand of R114, it is the same formula, a DESIGN CHOICE (log 30). -/
def execDestuff (x : Byte) (s : State) : Host.Outcome State Fault Refusal := .next (s.handOver (.byte (destuff x)))

/-- ENC_CTRL (R115). -/
def execEncCtrl (a c : Byte) (s : State) : Host.Outcome State Fault Refusal :=
  .next (s.handOver (.bytes (encCtrl a c)))

/-- ENC_INFO (R116). On a payload longer than MAX_PAYLOAD, no operand of R116, it is the same formula, a DESIGN CHOICE
(log 30). -/
def execEncInfo (a : Byte) (b : Bool) (p : List Byte) (s : State) : Host.Outcome State Fault Refusal :=
  .next (s.handOver (.frame (encInfo a b p) (encInfoEsc p)))

/-- DEC_INFO (R120), on working copies of its own. -/
def execDecInfo (f : List Byte) (s : State) : Host.Outcome State Fault Refusal :=
  .next (s.handOver (decInfo s.build.maxPayload f))

/-- DEC_BODY (R118): one body byte; a FLAG runs the closing check (R119) and hands over bodyOk (log 9). R118 performs it
only while OP is ReadBody; run as an instruction elsewhere it does the same, a DESIGN CHOICE (log 29). -/
def State.decBody (x : Byte) (s : State) : State :=
  if x = Config.FLAG then s.handOver (.verdict s.body.ok) else s.bodyStep x

/-- DEC_BODY (R118, R119). -/
def execDecBody (x : Byte) (s : State) : Host.Outcome State Fault Refusal := .next (s.decBody x)

/-- FSM_STEP (R130): it sends nothing, counts nothing and reports nothing by itself. Run as an instruction where no run is
in progress it does the same, a DESIGN CHOICE (log 29). On a VA or an EC that R137 does not give it moves by the same table,
a DESIGN CHOICE (log 30). -/
def execFsmStep (x : Byte) (va ec : List Byte) (s : State) : Host.Outcome State Fault Refusal :=
  .next (s.fsmStep x va ec)

/-- ArmTimer() (R186). Run as an instruction where no rule calls it, it does the same, a DESIGN CHOICE (log 29). -/
def execArmTimer (s : State) : Host.Outcome State Fault Refusal := .next s.armTimer

/-- DisarmTimer() (R187). Run as an instruction where no rule calls it, it does the same, a DESIGN CHOICE (log 29). -/
def execDisarmTimer (s : State) : Host.Outcome State Fault Refusal := .next s.disarmTimer

end Sys2Proof.Machine
end

