-- ==== Sys2Proof/Machine/Lifecycle.lean ====
section
/-! DEFINITION. Connection lifecycle: OPEN and CLOSE (R150 to R162), their steps on an accepted SET, DISC or UA and on a Timeout, and the acceptance of a control code by the run in progress (R136, R142). -/

namespace Sys2Proof.Machine

open Sys2Proof.Config

/-- What the run in progress does with a frame whose control code is c (R136, R142): if c is in EC, CTRL = c and FSM =
Done and the operation acts; if c is not in EC the FSM resyncs to AwaitFlag and nothing else changes (R133, R143); where
no run is in progress (OP Idle or ReadBody) nothing happens (R61, R28). Logs 12 and 13. -/
def State.acceptCode (c : Byte) (act : State → State) (s : State) : State :=
  if c ∈ s.expected then act { s with rcv := { s.rcv with fsm := .done, ctrl := c } }
  else if s.op.runsFsm then s.startRun
  else s

/-- R152, R154: the frame an attempt of OPEN sends: SET by an Initiator, nothing by a Responder. -/
def State.sendSet (s : State) : State :=
  match s.role with
  | .initiator => s.txFrame (encCtrl A_TX SET)
  | .responder => s

/-- R157, R159: the frame an attempt of CLOSE sends: DISC by an Initiator, nothing by a Responder. -/
def State.sendDisc (s : State) : State :=
  match s.role with
  | .initiator => s.txFrame (encCtrl A_TX DISC)
  | .responder => s

/-- R153, R158: the reply to SET and DISC. -/
def State.sendUa (s : State) : State := s.txFrame (encCtrl (replyAddr s.role) UA)

/-- A new attempt waits: FSM <- AwaitFlag; ArmTimer() (R152, R154, R157, R159, R172, R175, R176). -/
def State.awaitAnswer (s : State) : State := s.startRun.armTimer

/-- R152: OPEN start. -/
def State.openStart (s : State) : State :=
  let s := { s with role := s.cfgRole, numTries := s.cfgTries, timeOut := s.cfgTimeout, stat := Stats.zero,
                    txbit := false, rxbit := false, retry := 0, result := .none }
  { s.sendSet.awaitAnswer with op := .openWait }

/-- R153: OPEN done. -/
def State.openDone (s : State) : State := { s.disarmTimer with openf := true }.finish .ok

/-- R157: CLOSE start. -/
def State.closeStart (collect : Bool) (s : State) : State :=
  let s := { s with collect := collect, retry := 0, result := .none }
  { s.sendDisc.awaitAnswer with op := .closeWait }

/-- R158: CLOSE done. -/
def State.closeDone (s : State) : State := ({ s.disarmTimer with openf := false }.reportStats).finish .ok

/-- R153: the operation's action on an accepted SET (expected by OPEN only). -/
def State.onSet (s : State) : State := s.acceptCode SET (fun s => s.sendUa.openDone)

/-- R158: the operation's action on an accepted DISC (expected by CLOSE only). -/
def State.onDisc (s : State) : State := s.acceptCode DISC (fun s => s.sendUa.closeDone)

/-- R153, R158: the operation's action on an accepted UA (expected by OPEN and CLOSE). -/
def State.onUa (s : State) : State :=
  s.acceptCode UA (fun s => if s.op = .closeWait then s.closeDone else s.openDone)

/-- R154: Timeout while OP is OpenWait, the timer having expired. -/
def State.openTimeout (s : State) : State :=
  let s := s.countTimeout.bumpRetry
  if s.exhausted then s.finish .retriesExhausted else s.sendSet.awaitAnswer

/-- R159: Timeout while OP is CloseWait, the timer having expired. -/
def State.closeTimeout (s : State) : State :=
  let s := s.countTimeout.bumpRetry
  if s.exhausted then ({ s with openf := false }.reportStats).finish .retriesExhausted else s.sendDisc.awaitAnswer

/-! ## Meanings -/

/-- OPEN: acceptance R151, start R152; not taken while OP is not Idle (R237). -/
def execOpen (s : State) : Host.Outcome State Fault Refusal :=
  if s.busy then .next s
  else if s.openRefused then .next (s.finish .refused)
  else .next s.openStart

/-- CLOSE: acceptance R156, start R157; not taken while OP is not Idle (R237). -/
def execClose (collect : Bool) (s : State) : Host.Outcome State Fault Refusal :=
  if s.busy then .next s
  else if s.closeRefused then .next (s.finish .refused)
  else .next (s.closeStart collect)

/-- SET (R153). -/
def execSet (s : State) : Host.Outcome State Fault Refusal := .next s.onSet

/-- DISC (R158). -/
def execDisc (s : State) : Host.Outcome State Fault Refusal := .next s.onDisc

/-- UA (R153, R158). -/
def execUa (s : State) : Host.Outcome State Fault Refusal := .next s.onUa

end Sys2Proof.Machine
end

