-- ==== Sys2Proof/Machine/Transfer.lean ====
section
/-! DEFINITION. Data transfer: WRITE and READ (R170 to R184), their steps on an accepted RR, REJ or information header, on a closed body, and WRITE's step on a Timeout. -/

namespace Sys2Proof.Machine

open Sys2Proof.Config

/-- R64: the payload of the next WRITE, TXBUF[0 .. TXLEN-1]. -/
def State.payload (s : State) : List Byte := s.txbuf.readList .txbuf s.fresh 0 s.txlen

/-- R66: the encoded frame held, FRAMEBUF[0 .. FRAMELEN-1]. -/
def State.heldFrame (s : State) : List Byte := s.framebuf.readList .framebuf s.fresh 0 s.framelen

/-- R172: WRITE start. -/
def State.writeStart (s : State) : State :=
  let p := s.payload
  let f := encInfo (cmdAddr s.role) s.txbit p
  let s := { s with framebuf := s.framebuf.writeList 0 f, framelen := f.length }
  let s := { s.countEscaped (encInfoEsc p) with result := .none, retry := 0 }
  { (s.txFrame f).awaitAnswer with op := .writeWait }

/-- R174: RR(TXBIT) accepted. -/
def State.writeAcknowledged (s : State) : State :=
  (({ s.disarmTimer with txbit := !s.txbit }).countFrameSent).finish .ok

/-- R175, R176: the same bytes are sent again and a new attempt starts. -/
def State.resend (s : State) : State := (s.txFrame s.heldFrame).awaitAnswer

/-- R175: REJ(TXBIT) accepted. -/
def State.writeRejected (s : State) : State :=
  let s := s.countRejReceived.bumpRetry
  if s.exhausted then s.disarmTimer.finish .retriesExhausted else s.resend

/-- R176: Timeout while OP is WriteWait, the timer having expired. -/
def State.writeTimeout (s : State) : State :=
  let s := s.countTimeout.bumpRetry
  if s.exhausted then s.finish .retriesExhausted else s.resend

/-- R179: READ start. RXBUF is scratch from here on (R65, R267). -/
def State.readStart (s : State) : State :=
  { s.startRun with result := .none, op := .readHeader, delivered := false }

/-- R181: READ, body accepted. The RR carries the bit of the frame just accepted (decision D14). -/
def State.readAccepted (s : State) : State :=
  let b := s.rxbit
  let s := { s with rxbit := !b }
  let s := (s.txFrame (encCtrl (replyAddr s.role) (rrCode b))).countFrameReceived
  { s with rxlen := s.body.rxcnt - 1, delivered := true }.finish .ok

/-- R182: READ, body rejected; the READ goes on. -/
def State.readRejected (s : State) : State :=
  let s := (s.txFrame (encCtrl (replyAddr s.role) (rejCode s.rxbit))).countRejSent
  { s.startRun with op := .readHeader }

/-- R181, R182: what READ does in the step that consumes the closing FLAG. -/
def State.bodyClosed (s : State) : State := if s.body.ok then s.readAccepted else s.readRejected

/-- R174: the operation's action on an accepted RR(b) (expected by WRITE with TXBIT = b only). -/
def State.onRr (b : Bool) (s : State) : State := s.acceptCode (rrCode b) State.writeAcknowledged

/-- R175: the operation's action on an accepted REJ(b) (expected by WRITE with TXBIT = b only). -/
def State.onRej (b : Bool) (s : State) : State := s.acceptCode (rejCode b) State.writeRejected

/-- R180, R117: the operation's action on an accepted header I(b) (expected by READ with RXBIT = b only; the other
bit is a duplicate and is dropped, R183). -/
def State.onInfo (b : Bool) (s : State) : State := s.acceptCode (infoCode b) State.enterBody

/-! ## Meanings -/

/-- WRITE: acceptance R171, start R172; not taken while OP is not Idle (R237). -/
def execWrite (s : State) : Host.Outcome State Fault Refusal :=
  if s.busy then .next s
  else if s.writeRefused then .next (s.finish .refused)
  else .next s.writeStart

/-- READ: acceptance R178, start R179; not taken while OP is not Idle (R237). -/
def execRead (s : State) : Host.Outcome State Fault Refusal :=
  if s.busy then .next s
  else if s.readRefused then .next (s.finish .refused)
  else .next s.readStart

/-- RR0 (R174). -/
def execRr0 (s : State) : Host.Outcome State Fault Refusal := .next (s.onRr false)

/-- RR1 (R174). -/
def execRr1 (s : State) : Host.Outcome State Fault Refusal := .next (s.onRr true)

/-- RR(s), the family form (R88, R174; log 14). -/
def execRr (b : Bool) (s : State) : Host.Outcome State Fault Refusal := .next (s.onRr b)

/-- REJ0 (R175). -/
def execRej0 (s : State) : Host.Outcome State Fault Refusal := .next (s.onRej false)

/-- REJ1 (R175). -/
def execRej1 (s : State) : Host.Outcome State Fault Refusal := .next (s.onRej true)

/-- REJ(s), the family form (R88, R175; log 14). -/
def execRej (b : Bool) (s : State) : Host.Outcome State Fault Refusal := .next (s.onRej b)

/-- I0 (R180, R117). -/
def execI0 (s : State) : Host.Outcome State Fault Refusal := .next (s.onInfo false)

/-- I1 (R180, R117). -/
def execI1 (s : State) : Host.Outcome State Fault Refusal := .next (s.onInfo true)

/-- I(s), the family form (R88, R180; log 14). -/
def execInfo (b : Bool) (s : State) : Host.Outcome State Fault Refusal := .next (s.onInfo b)

end Sys2Proof.Machine
end

