-- ==== Sys2Proof/Machine/Events.lean ====
section
/-! DEFINITION. The input events with rows of their own (R228): Timeout (R189), XportErr (R232), Reset (R250); and the reserved command codes (R101). -/

namespace Sys2Proof.Machine

/-- R185, R189: the timer has expired: TMR is 0 and TARMED falls (log 18). -/
def State.expire (s : State) : State := { s with tmr := 0, tarmed := false }

/-- R189: the Timeout event: not enabled unless TARMED is 1 (R228); then the step of the operation in progress. In
Idle, ReadHeader and ReadBody TARMED is 0 (R33), so there only the flag falls (log 19). -/
def State.onTimeout (s : State) : State :=
  if s.tarmed then
    match s.op with
    | .openWait => s.expire.openTimeout
    | .writeWait => s.expire.writeTimeout
    | .closeWait => s.expire.closeTimeout
    | .idle => s.expire
    | .readHeader => s.expire
    | .readBody => s.expire
  else s

/-- R232: the XportErr event; while OP is Idle it is lost (R228). -/
def State.onXportErr (s : State) : State :=
  match s.op with
  | .idle => s
  | .closeWait => { s with openf := false }.finish .transportError
  | .openWait => s.finish .transportError
  | .writeWait => s.finish .transportError
  | .readHeader => s.finish .transportError
  | .readBody => s.finish .transportError

/-- R250: the Reset event: every register to R45's value, no pulse, the Transport not touched. What is not the
block's own stays: the streams, the build parameters, the environment's moves, the ports and the codec hand-over; the
buffers' unspecified contents are new free values (logs 5, 25). -/
def State.onReset (s : State) : State :=
  { State.reset with
    rx := s.rx, tx := s.tx, build := s.build, inputs := s.inputs, pend := s.pend, rdata := s.rdata,
    codecOut := s.codecOut, fresh := s.fresh + 1 }

/-- R101, R229: a reserved code finishes at once with Refused; not taken while OP is not Idle (R237). -/
def State.reservedCommand (s : State) : State := if s.busy then s else s.finish .refused

/-! ## Meanings -/

/-- TIMEOUT (R189). Run as an instruction before TMR is 0 it does the same, a DESIGN CHOICE (log 29). -/
def execTimeout (s : State) : Host.Outcome State Fault Refusal := .next s.onTimeout

/-- XPORT_ERR (R232). -/
def execXportErr (s : State) : Host.Outcome State Fault Refusal := .next s.onXportErr

/-- RESET (R250). -/
def execReset (s : State) : Host.Outcome State Fault Refusal := .next s.onReset

/-- CMD code 0 (R101). -/
def execReserved0 (s : State) : Host.Outcome State Fault Refusal := .next s.reservedCommand

/-- CMD code 5 (R101). -/
def execReserved5 (s : State) : Host.Outcome State Fault Refusal := .next s.reservedCommand

/-- CMD code 6 (R101). -/
def execReserved6 (s : State) : Host.Outcome State Fault Refusal := .next s.reservedCommand

/-- CMD code 7 (R101). -/
def execReserved7 (s : State) : Host.Outcome State Fault Refusal := .next s.reservedCommand

end Sys2Proof.Machine
end

