-- ==== Sys2Proof/Machine/Receive.lean ====
section
/-! DEFINITION. The RxByte event (R61, R228) as one function of the state, and the meanings of the two wire-frame rows: the whole frame arrives and the engine takes its bytes, one event each (log 15). -/

namespace Sys2Proof.Machine

open Sys2Proof.Config

/-- R136: in the step that produces Done the operation acts on CTRL. A byte that is no control code is never in EC, so no
run records one; the FSM would resync (R95; log 13). -/
def State.actOnCtrl (s : State) : State :=
  if s.rcv.ctrl = SET then s.onSet
  else if s.rcv.ctrl = DISC then s.onDisc
  else if s.rcv.ctrl = UA then s.onUa
  else if s.rcv.ctrl = RR0 then s.onRr false
  else if s.rcv.ctrl = RR1 then s.onRr true
  else if s.rcv.ctrl = REJ0 then s.onRej false
  else if s.rcv.ctrl = REJ1 then s.onRej true
  else if s.rcv.ctrl = I0 then s.onInfo false
  else if s.rcv.ctrl = I1 then s.onInfo true
  else s.startRun

/-- R153, R158, R173, R180: a byte while the FSM runs: FSM_STEP with VA and EC, and on a transition to Done the
operation's action in the same step. -/
def State.fsmByte (x : Byte) (s : State) : State :=
  let t := s.fsmStep x validAddresses s.expected
  if s.rcv.fsm ≠ .done ∧ t.rcv.fsm = .done then t.actOnCtrl else t

/-- R118, R181, R182: a byte while OP is ReadBody: DEC_BODY, and at the closing FLAG what READ does with bodyOk in the
same step. -/
def State.bodyByte (x : Byte) (s : State) : State :=
  if x = FLAG then (s.decBody x).bodyClosed else s.decBody x

/-- R228: the RxByte(x) event, enabled while OP is not Idle; each byte taken is counted (R208). -/
def State.rxByte (x : Byte) (s : State) : State :=
  if s.op = .idle then s
  else if s.op = .readBody then s.countReceived.bodyByte x
  else s.countReceived.fsmByte x

/-- R61: the engine takes the bytes the Transport holds, in order, while OP is not Idle; at most n of them. Each is one
step, so the outputs of the step before it are gone. -/
def State.takeBytes : Nat → State → State
  | 0, s => s
  | n + 1, s =>
    if s.op = .idle then s
    else
      match s.rx with
      | [] => s
      | x :: rest => State.takeBytes n (({ s with rx := rest }).dropPulses.rxByte x)

/-- Bytes reach the Transport behind those it holds, and the engine takes all it will take; while OP is Idle they stay in
the Transport (R61). -/
def State.receive (bs : List Byte) (s : State) : State :=
  State.takeBytes (s.rx.length + bs.length) { s with rx := s.rx ++ bs }

/-- CTRL_FRAME (R81, R115): the control frame with address a and control code c is received. Operands outside R86 and
R87 spell bytes by the same layout, a DESIGN CHOICE (log 30). -/
def execCtrlFrame (a c : Byte) (s : State) : Host.Outcome State Fault Refusal := .next (s.receive (encCtrl a c))

/-- INFO_FRAME (R82, R116): the information frame with address a, sequence bit b and payload p is received. Operands
outside R82 and R86 spell bytes by the same layout, a DESIGN CHOICE (log 30). -/
def execInfoFrame (a : Byte) (b : Bool) (p : List Byte) (s : State) : Host.Outcome State Fault Refusal :=
  .next (s.receive (encInfo a b p))

end Sys2Proof.Machine
end

