-- ==== Sys2Proof/Machine/Dispatch.lean ====
section
/-! DEFINITION. One arm per constructor of Instr. -/

namespace Sys2Proof.Machine

def exec (i : Instr) (s : State) : Host.Outcome State Fault Refusal :=
  match i with
  | .set => Sys2Proof.Machine.execSet s
  | .disc => Sys2Proof.Machine.execDisc s
  | .ua => Sys2Proof.Machine.execUa s
  | .rr0 => Sys2Proof.Machine.execRr0 s
  | .rr1 => Sys2Proof.Machine.execRr1 s
  | .rej0 => Sys2Proof.Machine.execRej0 s
  | .rej1 => Sys2Proof.Machine.execRej1 s
  | .i0 => Sys2Proof.Machine.execI0 s
  | .i1 => Sys2Proof.Machine.execI1 s
  | .rr b => Sys2Proof.Machine.execRr b s
  | .rej b => Sys2Proof.Machine.execRej b s
  | .info b => Sys2Proof.Machine.execInfo b s
  | .ctrlFrame a c => Sys2Proof.Machine.execCtrlFrame a c s
  | .infoFrame a b p => Sys2Proof.Machine.execInfoFrame a b p s
  | .cmdOpen => Sys2Proof.Machine.execOpen s
  | .cmdWrite => Sys2Proof.Machine.execWrite s
  | .cmdRead => Sys2Proof.Machine.execRead s
  | .cmdClose collect => Sys2Proof.Machine.execClose collect s
  | .cmdReserved0 => Sys2Proof.Machine.execReserved0 s
  | .cmdReserved5 => Sys2Proof.Machine.execReserved5 s
  | .cmdReserved6 => Sys2Proof.Machine.execReserved6 s
  | .cmdReserved7 => Sys2Proof.Machine.execReserved7 s
  | .bcc1 a c => Sys2Proof.Machine.execBcc1 a c s
  | .bcc2 p => Sys2Proof.Machine.execBcc2 p s
  | .stuff b => Sys2Proof.Machine.execStuff b s
  | .destuff x => Sys2Proof.Machine.execDestuff x s
  | .encCtrl a c => Sys2Proof.Machine.execEncCtrl a c s
  | .encInfo a b p => Sys2Proof.Machine.execEncInfo a b p s
  | .decBody x => Sys2Proof.Machine.execDecBody x s
  | .decInfo f => Sys2Proof.Machine.execDecInfo f s
  | .fsmStep x va ec => Sys2Proof.Machine.execFsmStep x va ec s
  | .armTimer => Sys2Proof.Machine.execArmTimer s
  | .disarmTimer => Sys2Proof.Machine.execDisarmTimer s
  | .timeout => Sys2Proof.Machine.execTimeout s
  | .xportErr => Sys2Proof.Machine.execXportErr s
  | .reset => Sys2Proof.Machine.execReset s

end Sys2Proof.Machine
end

