-- ==== Sys2Proof/Machine/HostPort.lean ====
section
/-! DEFINITION. The host's and the Transport's access to the block (R40, R60 to R65, R228): the register map, the buffers, and how one move of the environment changes the state. -/

namespace Sys2Proof.Machine

/-- R40: the word read from register n; unlisted bits and unlisted numbers read as 0 (93 U9, U10). -/
def State.regRead (n : Nat) (s : State) : Nat :=
  match n with
  | 1 => s.cfgRole.code
  | 2 => s.cfgTries
  | 3 => s.cfgTimeout
  | 4 => s.statusWord
  | 5 => s.result.code
  | 6 => s.retry
  | 7 => s.rcv.addr.toNat + 2 ^ 8 * s.rcv.ctrl.toNat
  | 8 => s.txlen
  | 9 => s.rxlen
  | 10 => s.stat.framesSent
  | 11 => s.stat.framesRecv
  | 12 => s.stat.rejSent
  | 13 => s.stat.rejRecv
  | 14 => s.stat.timeouts
  | 15 => s.stat.escaped
  | 16 => s.stat.bytesSent
  | 17 => s.stat.bytesRecv
  | 18 => s.tmr
  | 19 => s.numTries
  | 20 => s.timeOut
  | _ => 0

/-- R40: a host write of word v to register n other than CMD: each RW field takes its bits of v; a write to a read-only
or unlisted number is ignored (93 U10). TXLEN takes the whole word (log 20). -/
def State.regWrite (n v : Nat) (s : State) : State :=
  match n with
  | 1 => { s with cfgRole := if v % 2 = 0 then .initiator else .responder }
  | 2 => { s with cfgTries := v % 2 ^ s.build.triesW }
  | 3 => { s with cfgTimeout := v % 2 ^ s.build.timerW }
  | 8 => { s with txlen := v }
  | _ => s

/-- R99, R237: a write of CMD is taken only if OP is Idle at that instant; otherwise it is not remembered (log 27). -/
def State.latchCmd (w : Option Nat) (s : State) : Option Nat := if s.busy then none else w

/-- R63, R231: one instant. Bytes that arrive join those the Transport holds; a pulse of `tick` counts; the events of
the instant stand in pend until the step takes them in R231's order. A byte is offered only if the engine takes bytes at
this instant (R61: `rx_ready`). Log 3. -/
def State.instant (rst xportErr : Bool) (arrive : List Byte) (rxValid tick : Bool) (cmd : Option Nat) (s : State) :
    State :=
  let s := { s with rx := s.rx ++ arrive }
  let s := if tick then s.tick else s
  { s with pend := { rst := rst, xportErr := xportErr, rxValid := rxValid && s.rxReady, cmd := s.latchCmd cmd } }

/-- A host read whose byte no rule gives: any value (93 U12; logs 6, 8). -/
def State.readOpen (name : BufferName) (i : Nat) (s : State) : State :=
  { s with rdata := (Config.anyByte name s.fresh i).toNat, fresh := s.fresh + 1 }

/-- R64: the host's read of TXBUF[i]; at an index TXBUF does not have, any value (log 8). -/
def State.readTxbuf (i : Nat) (s : State) : State :=
  if i < s.build.maxPayload then { s with rdata := (s.txbuf.readAny .txbuf s.fresh i).toNat } else s.readOpen .txbuf i

/-- R65: the host's read of RXBUF[i]: what the engine stored there, after a READ that ended Ok; any value during a READ
and after one that ended otherwise (93 U12; log 6), and at an index RXBUF does not have (log 8). -/
def State.readRxbuf (i : Nat) (s : State) : State :=
  if s.delivered && decide (i ≤ s.build.maxPayload) then
    { s with rdata := (s.rxbuf.readAny .rxbuf s.fresh i).toNat }
  else s.readOpen .rxbuf i

/-- R64: the host's write of TXBUF[i]. At an index TXBUF does not have the block goes on (R220), and whether a byte of
TXBUF is written, and which, is open (log 8). -/
def State.writeTxbuf (i : Nat) (b : Byte) (s : State) : State :=
  if i < s.build.maxPayload then { s with txbuf := s.txbuf.write i b }
  else
    { s with
      fresh := s.fresh + 1
      txbuf :=
        match Config.strayWrite s.fresh i with
        | some k => if k < s.build.maxPayload then s.txbuf.write k b else s.txbuf
        | none => s.txbuf }

/-- R228: accesses other than a write of CMD "read or write the named state directly and are atomic with respect to
steps". -/
def State.applyInput (m : Input) (s : State) : Host.Outcome State Fault Refusal :=
  match m with
  | .instant rst xportErr arrive rxValid tick cmd => .next (s.instant rst xportErr arrive rxValid tick cmd)
  | .regWrite n v => if n = 0 then .next (s.instant false false [] false false (some v)) else .next (s.regWrite n v)
  | .regRead n => .next { s with rdata := s.regRead n }
  | .txbufWrite i b => .next (s.writeTxbuf i b)
  | .txbufRead i => .next (s.readTxbuf i)
  | .rxbufRead i => .next (s.readRxbuf i)
  | .txTake => .next { s with tx := s.tx.tail }
  | .line bs => .next (s.receive bs)

end Sys2Proof.Machine
end

