-- ==== Sys2Proof/Machine/Run.lean ====
section
/-! DEFINITION. What the step fetches and what it adds around exec: the event taken next (R228, R231), the instruction it names, what the operation does with a completed header or body in the same step (R136, R181), the environment's next move, and how a word is placed where the step fetches. -/

namespace Sys2Proof.Machine

open Sys2Proof.Config

/-- R228: the engine's five input events. -/
inductive Event where
  | reset
  | xportErr
  | rxByte (x : Byte)
  | timeout
  | cmd (w : Nat)
deriving DecidableEq, Repr

/-- R228, R231: the event taken next among those ready at this instant: Reset, XportErr, RxByte, Timeout, Cmd. -/
def State.readyEvent (s : State) : Option Event :=
  if s.pend.rst then some .reset
  else if s.pend.xportErr then some .xportErr
  else
    match s.pend.rxValid && s.rxReady, s.rx with
    | true, x :: _ => some (.rxByte x)
    | _, _ =>
      if s.timeoutDue then some .timeout
      else
        match s.pend.cmd with
        | some w => some (.cmd w)
        | none => none

/-- An event is taken once: its line falls, and a byte leaves the RX stream (R61) and is counted (R208). -/
def State.consume (e : Event) (s : State) : State :=
  match e with
  | .reset => { s with pend := { s.pend with rst := false } }
  | .xportErr => { s with pend := { s.pend with xportErr := false } }
  | .rxByte _ => { s with pend := { s.pend with rxValid := false }, rx := s.rx.tail }.countReceived
  | .timeout => s
  | .cmd _ => { s with pend := { s.pend with cmd := none } }

/-- The instruction an event runs: a byte goes to DEC_BODY while OP is ReadBody and to FSM_STEP with VA and EC otherwise
(R228, R137); a command word is decoded. -/
def State.eventInstr (e : Event) (s : State) : Instr :=
  match e with
  | .reset => .reset
  | .xportErr => .xportErr
  | .rxByte x => if s.op = .readBody then .decBody x else .fsmStep x validAddresses s.expected
  | .timeout => .timeout
  | .cmd w => decodeCommand w

/-- What happens in the same step after the byte's own instruction has turned state s into state t: at a closing FLAG
READ acts on bodyOk (R181, R182); on a transition to Done the instruction that CTRL holds is run (R136; where CTRL holds
none, which no run records, the FSM resyncs: log 13). -/
def State.completeByte (x : Byte) (s t : State) : Host.Outcome State Fault Refusal :=
  if s.op = .readBody then
    if x = FLAG then .next t.bodyClosed else .next t
  else if s.rcv.fsm ≠ .done ∧ t.rcv.fsm = .done then
    match decodeControl t.rcv.ctrl with
    | .ok i => exec i t
    | .error _ => .next t.startRun
  else .next t

/-- The step of one event. -/
def State.takeEvent (e : Event) (s : State) : Host.Outcome State Fault Refusal :=
  let s' := s.consume e
  match exec (s'.eventInstr e) s' with
  | .next t =>
    match e with
    | .rxByte x => s'.completeByte x t
    | .reset => .next t
    | .xportErr => .next t
    | .timeout => .next t
    | .cmd _ => .next t
  | .fault r => .fault r
  | .refused r => .refused r

/-- When no event is ready: the environment's next move; a whole frame on the line runs its instruction (log 15). With
no move left the block waits (R239, R240; log 26). -/
def State.nextInput (s : State) : Host.Outcome State Fault Refusal :=
  match s.inputs with
  | [] => .next s
  | m :: rest =>
    let s' := { s with inputs := rest, pend := Lines.clear }
    match m with
    | .line bs =>
      match decodeFrame bs with
      | .ok (i, []) => exec i s'
      | _ => .next (s'.receive bs)
    | .instant rst xportErr arrive rxValid tick cmd => s'.applyInput (.instant rst xportErr arrive rxValid tick cmd)
    | .regWrite n v => s'.applyInput (.regWrite n v)
    | .regRead n => s'.applyInput (.regRead n)
    | .txbufWrite i b => s'.applyInput (.txbufWrite i b)
    | .txbufRead i => s'.applyInput (.txbufRead i)
    | .rxbufRead i => s'.applyInput (.rxbufRead i)
    | .txTake => s'.applyInput .txTake

/-! ## Placing a word where the step fetches (log 22) -/

/-- A position in which the control code c is expected, with the sequence bit it is expected for (R139). -/
def State.expecting (c : Byte) (s : State) : State :=
  if c = SET ∨ c = UA then { s with op := .openWait }
  else if c = DISC then { s with op := .closeWait }
  else if isInfo c then { s with op := .readHeader, rxbit := seqOfInfo c }
  else { s with op := .writeWait, txbit := seqOfReply c }

/-- The control code stands in CTRL, as the FSM leaves it when only the last byte of its frame (of its header, for an
information code) is still to come, and that byte is the next of the RX stream and offered. -/
def State.placeControl (c : Byte) (s : State) : State :=
  { s.expecting c with
    rcv := { fsm := if isInfo c then .awaitBcc1 else .awaitTrailingFlag, addr := A_TX, ctrl := c }
    rx := (if isInfo c then bcc1 A_TX c else FLAG) :: s.rx
    pend := { rst := false, xportErr := false, rxValid := true, cmd := none } }

/-- The command word is written to CMD at this instant, OP being Idle and the timer disarmed (R33). -/
def State.placeCommand (w : Nat) (s : State) : State :=
  { s with op := .idle, tarmed := false, pend := { rst := false, xportErr := false, rxValid := false, cmd := some w } }

/-- The frame is the environment's next move, no event being ready. -/
def State.placeFrame (bs : List Byte) (s : State) : State :=
  { s with pend := Lines.clear, tarmed := s.tarmed && !s.timeoutDue, inputs := .line bs :: s.inputs }

/-- The whole frame at the front of a byte sequence, without the zero bytes that may follow it. -/
def frontFrame (bs : List Byte) : List Byte :=
  match decodeFrame bs with
  | .ok (_, rest) => bs.take (bs.length - rest.length)
  | .error _ => bs

/-- A table word placed where the step fetches its next instruction. -/
def State.placeTableWord (nbits w : Nat) (s : State) : State :=
  match tablePlace nbits w with
  | .control c => s.placeControl c
  | .command w => s.placeCommand w
  | .frame bs => s.placeFrame (frontFrame bs)

end Sys2Proof.Machine
end

