-- ==== Sys2Proof/Machine/Step.lean ====
section
/-! DEFINITION. One step: the engine takes the event that R231 puts first among those ready, or, when none is ready, the environment makes its next move (log 3). -/

namespace Sys2Proof.Machine

/-- R228: "The engine changes state only in response to one of five input events, one at a time". -/
def step (s : State) : Host.Outcome State Fault Refusal :=
  let s := s.dropPulses
  match s.readyEvent with
  | some e => s.takeEvent e
  | none => s.nextInput

/-- The state with a table word stored where step fetches its next instruction (log 22). -/
def State.withFetchWord (s : State) (nbits w : Nat) : State := s.placeTableWord nbits w

end Sys2Proof.Machine
end

