-- ==== Sys2Proof/Safety.lean ====
section
/-! DEFINITION. What the claims call a legal state: the relations between registers that the spec's rules state or imply, each a named invariant; and the measure of R272. -/

namespace Sys2Proof.Machine

open Sys2Proof.Config

/-- R26 to R33, R39, R136, R142, R236: the sequencing registers agree with one another. -/
structure State.Sequenced (s : State) : Prop where
  /-- R33: the timer is armed exactly in OpenWait, WriteWait and CloseWait (between the tick to 0 and the Timeout's step
  that is the model's reading: log 18). -/
  armed : s.tarmed = s.op.timed
  /-- R136: no byte is ever taken with FSM = Done. -/
  running : s.op.runsFsm = true → s.rcv.fsm ≠ .done
  /-- R29, R180: while OP is ReadBody the FSM is Done and CTRL is the header's code. -/
  inBody : s.op = .readBody → s.rcv.fsm = .done ∧ s.rcv.ctrl = infoCode s.rxbit
  /-- R142: the recorded address is a valid one. -/
  addrRecorded : s.op.runsFsm = true →
    (s.rcv.fsm = .awaitControl ∨ s.rcv.fsm = .awaitBcc1 ∨ s.rcv.fsm = .awaitTrailingFlag) → s.rcv.addr ∈ validAddresses
  /-- R142: the recorded control code is in EC. -/
  ctrlRecorded : s.op.runsFsm = true →
    (s.rcv.fsm = .awaitBcc1 ∨ s.rcv.fsm = .awaitTrailingFlag) → s.rcv.ctrl ∈ s.expected
  /-- R134: AwaitTrailingFlag is reached only for control frames. -/
  trailing : s.op.runsFsm = true → s.rcv.fsm = .awaitTrailingFlag → isInfo s.rcv.ctrl = false
  /-- R25, R151: OPEN runs in the Closed mode. -/
  closed : s.op = .openWait → s.openf = false
  /-- R25, R236: every other operation runs in the Open mode. -/
  opened : s.op = .writeWait ∨ s.op = .readHeader ∨ s.op = .readBody ∨ s.op = .closeWait → s.openf = true
  /-- R39: RESULT is None while a command is in progress. -/
  pending : s.op ≠ .idle → s.result = .none
  /-- R237: a command is latched only while OP is Idle. -/
  latched : s.pend.cmd ≠ none → s.op = .idle

/-- R22 to R24, R32, R33, R151, R188: the retry budget and the timer. -/
structure State.Budgeted (s : State) : Prop where
  /-- R32: "RETRY never exceeds NUM_TRIES + 1". -/
  retryBound : s.retry ≤ s.numTries + 1
  /-- R188: an attempt runs only while RETRY does not exceed NUM_TRIES. -/
  attempt : s.op.timed = true → s.retry ≤ s.numTries
  /-- R151: an open connection, and one being opened, has a positive budget and a positive timeout. -/
  positive : s.openf = true ∨ s.op = .openWait → 0 < s.numTries ∧ 0 < s.timeOut
  /-- R186: the timer counts down from TIME_OUT. -/
  timer : s.tmr ≤ s.timeOut

/-- R22, R23, R24, R33, R209: every register holds a value of its width. -/
structure State.InWidth (s : State) : Prop where
  cfgTries : s.cfgTries < 2 ^ s.build.triesW
  numTries : s.numTries < 2 ^ s.build.triesW
  retry : s.retry < 2 ^ (s.build.triesW + 1)
  cfgTimeout : s.cfgTimeout < 2 ^ s.build.timerW
  timeOut : s.timeOut < 2 ^ s.build.timerW
  tmr : s.tmr < 2 ^ s.build.timerW
  framesSent : s.stat.framesSent < 2 ^ s.build.cntW
  framesRecv : s.stat.framesRecv < 2 ^ s.build.cntW
  rejSent : s.stat.rejSent < 2 ^ s.build.cntW
  rejRecv : s.stat.rejRecv < 2 ^ s.build.cntW
  timeouts : s.stat.timeouts < 2 ^ s.build.cntW
  escaped : s.stat.escaped < 2 ^ s.build.cntW
  bytesSent : s.stat.bytesSent < 2 ^ s.build.cntW
  bytesRecv : s.stat.bytesRecv < 2 ^ s.build.cntW

/-- R36, R37, R41, R64 to R66: the buffers are in canonical form and inside their index spaces, and the lengths and the
body decoder's count stay within them. -/
structure State.Buffered (s : State) : Prop where
  txbufForm : s.txbuf.wf = true
  txbufRange : s.txbuf.below s.build.maxPayload = true
  rxbufForm : s.rxbuf.wf = true
  rxbufRange : s.rxbuf.below (s.build.maxPayload + 1) = true
  framebufForm : s.framebuf.wf = true
  framebufRange : s.framebuf.below (2 * s.build.maxPayload + 7) = true
  /-- R118 (e): RXCNT stays at MAX_PAYLOAD + 1 (log 17). -/
  rxcnt : s.body.rxcnt ≤ s.build.maxPayload + 1
  /-- R37: RXOVF is set only by a byte that finds RXCNT at MAX_PAYLOAD + 1 (log 17). -/
  rxovf : s.body.rxovf = true → s.body.rxcnt = s.build.maxPayload + 1
  /-- R41: RXLEN is 0 to MAX_PAYLOAD. -/
  rxlen : s.rxlen ≤ s.build.maxPayload
  /-- R41: FRAMELEN is at most 2 * MAX_PAYLOAD + 7. -/
  framelen : s.framelen ≤ 2 * s.build.maxPayload + 7
  /-- R65: the destuffed bytes counted are stored. -/
  stored : s.op = .readBody → ∀ i, i < s.body.rxcnt → (s.rxbuf.read i).isSome = true
  /-- R65: the delivered payload, and the BCC2 byte behind it, are there to be read. -/
  payloadHeld : s.delivered = true → ∀ i, i ≤ s.rxlen → (s.rxbuf.read i).isSome = true

/-- R66, R192: while a WRITE is in progress, FRAMEBUF holds the encoding of one payload under the current send bit and
role, so every copy sent is that frame. -/
def State.HoldsFrame (s : State) : Prop :=
  s.op = .writeWait → ∃ p : List Byte, p.length ≤ s.build.maxPayload ∧
    s.framelen = (encInfo (cmdAddr s.role) s.txbit p).length ∧
    ∀ i, i < s.framelen → s.framebuf.read i = (encInfo (cmdAddr s.role) s.txbit p)[i]?

/-! ## The next event, and what a run counts, in the terms the claims use -/

/-- R61, R228, R231: the event taken next is RxByte(x), x being the first byte the Transport holds and rest the others. -/
structure State.Offers (s : State) (x : Byte) (rest : List Byte) : Prop where
  taking : s.op ≠ .idle
  noReset : s.pend.rst = false
  noError : s.pend.xportErr = false
  offered : s.pend.rxValid = true
  first : s.rx = x :: rest

/-- R61, R208, R228: the state in which the step acts on a byte: the outputs of the step before it are gone, the byte has
left the RX stream and is counted. -/
def State.afterTaking (rest : List Byte) (s : State) : State :=
  { s with
    done := false, statsValid := false, rx := rest, pend := { s.pend with rxValid := false }
    stat := { s.stat with bytesRecv := (s.stat.bytesRecv + 1) % 2 ^ s.build.cntW } }

/-- R228: no event is ready, so that the environment makes the next move (log 3). -/
structure State.Quiet (s : State) : Prop where
  noReset : s.pend.rst = false
  noError : s.pend.xportErr = false
  noByte : s.pend.rxValid = false ∨ s.op = .idle ∨ s.rx = []
  noTimeout : s.tarmed = false ∨ s.tmr ≠ 0
  noCommand : s.pend.cmd = none

/-- The state in which the environment's next move acts (log 3). -/
def State.afterMove (rest : List Input) (s : State) : State :=
  { s with done := false, statsValid := false, inputs := rest, pend := Lines.clear }

/-- R185: 1 if the next step is a pulse of `tick`, else 0. -/
def State.ticked (s : State) : Nat :=
  match s.readyEvent, s.inputs with
  | none, .instant _ _ _ _ true _ :: _ => 1
  | _, _ => 0

/-- R272: the ticks of the next k steps. -/
def State.ticksIn : Nat → State → Nat
  | 0, _ => 0
  | k + 1, s =>
    match step s with
    | .next t => s.ticked + State.ticksIn k t
    | .fault _ => 0
    | .refused _ => 0

/-- The operation o is in progress now and after each of the next k steps. -/
def State.staysIn (o : Op) : Nat → State → Prop
  | 0, s => s.op = o
  | k + 1, s =>
    s.op = o ∧
      match step s with
      | .next t => State.staysIn o k t
      | .fault _ => False
      | .refused _ => False

/-- R272: the ticks an operation that has armed the timer may still last. -/
def State.ticksLeft (s : State) : Nat := (s.numTries - s.retry) * s.timeOut + s.tmr

/-- R190 (d), R201, R202, R209: TXBIT and RXBIT are the parities of the frames sent and received since OPEN; a wrapping
counter keeps its parity. -/
structure State.InParity (s : State) : Prop where
  width : 1 ≤ s.build.cntW
  send : s.txbit = decide (s.stat.framesSent % 2 = 1)
  receive : s.rxbit = decide (s.stat.framesRecv % 2 = 1)

/-- R73, R254, R267: t differs from s at most in what the host writes for a later command (the configuration registers,
TXLEN, TXBUF) and in the word last read. -/
def State.SameOperation (s t : State) : Prop :=
  t = { s with cfgRole := t.cfgRole, cfgTries := t.cfgTries, cfgTimeout := t.cfgTimeout, txlen := t.txlen,
               txbuf := t.txbuf, rdata := t.rdata }

end Sys2Proof.Machine
end

