-- ==== Sys2Proof/Certificates/Slice0/Obligations.lean ====
section
/-! DEFINITION. The statements for the provers, from the numbered rules of spec/. A completion statement gives the next state as a whole record, so it is the instruction's frame as well. -/

open Sys2Proof Sys2Proof.Config Sys2Proof.Machine

/-! ## Encodings -/

/-- R81, R82, R87, R100: words written out from the spec's encodings decode to the instructions they stand for. -/
def Obligations.WordsDecode : Prop :=
  decode (.control 0x07) = .ok .set ∧ decode (.control 0x0A) = .ok .disc ∧ decode (.control 0x06) = .ok .ua ∧
    decode (.control 0x15) = .ok .rej1 ∧ decode (.control 0xC0) = .ok .i1 ∧
    decode (.frame [0x5C, 0x01, 0x0A, 0x0B, 0x5C]) = .ok (.ctrlFrame 0x01 0x0A) ∧
    decode (.frame [0x5C, 0x03, 0xC0, 0xC3, 0x5D, 0x7C, 0x5D, 0x7D, 0x00, 0x01, 0x5C])
      = .ok (.infoFrame 0x03 true [0x5C, 0x5D, 0x00]) ∧
    decode (.command 2) = .ok .cmdWrite ∧ decode (.command 12) = .ok (.cmdClose true)

/-- R99, R100, 93 U9: CMD[2:0] is the command, CMD[3] is read by CLOSE only, the bits above are ignored. -/
def Obligations.CommandWordDecodes : Prop :=
  ∀ w : Nat,
    (w % 8 = 0 → decode (.command w) = .ok .cmdReserved0) ∧ (w % 8 = 1 → decode (.command w) = .ok .cmdOpen) ∧
    (w % 8 = 2 → decode (.command w) = .ok .cmdWrite) ∧ (w % 8 = 3 → decode (.command w) = .ok .cmdRead) ∧
    (w % 8 = 4 → decode (.command w) = .ok (.cmdClose (w.testBit 3))) ∧
    (w % 8 = 5 → decode (.command w) = .ok .cmdReserved5) ∧ (w % 8 = 6 → decode (.command w) = .ok .cmdReserved6) ∧
    (w % 8 = 7 → decode (.command w) = .ok .cmdReserved7)

/-- R13: the three functions of the sequence bit, and seqOf, their inverse (R88). R93: the 18 values of BCC1, A down and C across,
of which none is FLAG or ESC. -/
def Obligations.WireCodeTables : Prop :=
  (∀ s : Bool, rrCode s = 0x01 ||| (bitByte s <<< 4) ∧ rejCode s = 0x05 ||| (bitByte s <<< 4) ∧
    infoCode s = 0x80 ||| (bitByte s <<< 6) ∧ seqOfReply (rrCode s) = s ∧ seqOfReply (rejCode s) = s ∧
    seqOfInfo (infoCode s) = s) ∧
    [SET, DISC, UA, RR0, RR1, REJ0, REJ1, I0, I1].map (bcc1 A_TX)
      = [0x06, 0x0B, 0x07, 0x00, 0x10, 0x04, 0x14, 0x81, 0xC1] ∧
    [SET, DISC, UA, RR0, RR1, REJ0, REJ1, I0, I1].map (bcc1 A_RX)
      = [0x04, 0x09, 0x05, 0x02, 0x12, 0x06, 0x16, 0x83, 0xC3] ∧
    ∀ a ∈ [A_TX, A_RX], ∀ c ∈ [SET, DISC, UA, RR0, RR1, REJ0, REJ1, I0, I1], bcc1 a c ≠ FLAG ∧ bcc1 a c ≠ ESC

/-- R90: the frames each role sends, byte for byte; replyAddr and cmdAddr choose the address. -/
def Obligations.FramesByRole : Prop :=
  encCtrl (cmdAddr .initiator) SET = [0x5C, 0x01, 0x07, 0x06, 0x5C] ∧
    encCtrl (cmdAddr .initiator) DISC = [0x5C, 0x01, 0x0A, 0x0B, 0x5C] ∧
    [UA, RR0, RR1, REJ0, REJ1].map (encCtrl (replyAddr .initiator))
      = [[0x5C, 0x03, 0x06, 0x05, 0x5C], [0x5C, 0x03, 0x01, 0x02, 0x5C], [0x5C, 0x03, 0x11, 0x12, 0x5C],
         [0x5C, 0x03, 0x05, 0x06, 0x5C], [0x5C, 0x03, 0x15, 0x16, 0x5C]] ∧
    [UA, RR0, RR1, REJ0, REJ1].map (encCtrl (replyAddr .responder))
      = [[0x5C, 0x01, 0x06, 0x07, 0x5C], [0x5C, 0x01, 0x01, 0x00, 0x5C], [0x5C, 0x01, 0x11, 0x10, 0x5C],
         [0x5C, 0x01, 0x05, 0x04, 0x5C], [0x5C, 0x01, 0x15, 0x14, 0x5C]] ∧
    ∀ p : List Byte,
      (encInfo (cmdAddr .initiator) false p).take 4 = [0x5C, 0x01, 0x80, 0x81] ∧
      (encInfo (cmdAddr .initiator) true p).take 4 = [0x5C, 0x01, 0xC0, 0xC1] ∧
      (encInfo (cmdAddr .responder) false p).take 4 = [0x5C, 0x03, 0x80, 0x83] ∧
      (encInfo (cmdAddr .responder) true p).take 4 = [0x5C, 0x03, 0xC0, 0xC3]

/-- R81, R82, R87, R88, R100: decoding the encoding of any well-formed instruction that has one gives it back, every operand
at every value; the family forms come back as the specific code they spell (log 14). -/
def Obligations.DecodeOfEncode : Prop :=
  ∀ (p : Params) (i : Instr) (e : Encoded), i.wellFormed p = true → encode i = some e → decode e = .ok i.specific

/-- R80 to R82, R85, R87: each wire control byte and each whole frame has one meaning: what it decodes to encodes as the
same bytes, so no two of them name one instruction. For frames that is the model's choice: its frame decoder takes only the
encodings a conforming encoder produces (log 23), where a receiver takes others too (R118, R120, R122). -/
def Obligations.EncodeOfDecode : Prop :=
  ∀ (e : Encoded) (i : Instr), (∀ w, e ≠ .command w) → decode e = .ok i → encode i = some e

/-! ## The codec (R110 to R122) -/

/-- R110: exclusive or of bytes, and what follows for xor_fold. -/
def Obligations.ExclusiveOrLaws : Prop :=
  (∀ a b c : Byte, a ^^^ b = b ^^^ a ∧ (a ^^^ b) ^^^ c = a ^^^ (b ^^^ c) ∧ a ^^^ 0x00 = a ∧ a ^^^ a = 0x00) ∧
    xorFold [] = 0x00 ∧
    (∀ s t : List Byte, s.Perm t → xorFold s = xorFold t) ∧
    ∀ (s : List Byte) (x : Byte), xorFold (s ++ [x]) = 0x00 ↔ x = xorFold s

/-- R111 to R116, R120: the codec functions answer for every operand; each hands over its value and writes no register, no
buffer and no stream. When DEC_INFO answers Incomplete, ChecksumMismatch or a payload (R119, R120): the FSM runs from AwaitFlag
with EC = {I(0), I(1)}; head is what brings it to Done, and the bytes behind it go to the body decoder up to a FLAG. That the
value is handed over in codecOut is the model's choice (log 9); so is the value of DESTUFF on FLAG, and of BCC2 and ENC_INFO on
a payload longer than MAX_PAYLOAD, which R114, R112 and R116 do not give them (log 30). -/
def Obligations.CodecFunctions : Prop :=
  ∀ s : State,
    (∀ a c, exec (.bcc1 a c) s = .next { s with codecOut := .byte (a ^^^ c) }) ∧
    (∀ p, exec (.bcc2 p) s = .next { s with codecOut := .byte (p.foldl (· ^^^ ·) 0x00) }) ∧
    (∀ b, exec (.stuff b) s
      = .next { s with codecOut := .bytes (if b = 0x5C ∨ b = 0x5D then [0x5D, b ^^^ 0x20] else [b]) }) ∧
    (∀ x, exec (.destuff x) s = .next { s with codecOut := .byte (x ^^^ 0x20) }) ∧
    (∀ a c, exec (.encCtrl a c) s = .next { s with codecOut := .bytes [0x5C, a, c, a ^^^ c, 0x5C] }) ∧
    (∀ (a : Byte) (b : Bool) (p : List Byte),
      let c : Byte := if b then 0xC0 else 0x80
      let x := p.foldl (· ^^^ ·) 0x00
      exec (.encInfo a b p) s = .next { s with
        codecOut := .frame
          ([0x5C, a, c, a ^^^ c] ++ (p.map stuff).flatten ++ stuff x ++ [0x5C])
          ((p ++ [x]).countP (fun y => y == 0x5C || y == 0x5D)) }) ∧
    (∀ f, exec (.decInfo f) s = .next { s with codecOut := decInfo s.build.maxPayload f }) ∧
    ∀ f : List Byte,
      let run := fun (bs : List Byte) =>
        bs.foldl (fun r y => fsmNext validAddresses [0x80, 0xC0] y r) { fsm := .awaitFlag, addr := 0x00, ctrl := 0x00 }
      ((∀ k, k ≤ f.length → (run (f.take k)).fsm ≠ .done) →
        exec (.decInfo f) s = .next { s with codecOut := .incomplete }) ∧
      ∀ head rest : List Byte, f = head ++ rest → (run head).fsm = .done →
        (∀ k, k < head.length → (run (head.take k)).fsm ≠ .done) →
        (FLAG ∉ rest → exec (.decInfo f) s = .next { s with codecOut := .incomplete }) ∧
        ∀ body after : List Byte, rest = body ++ [FLAG] ++ after → FLAG ∉ body →
          let t := body.foldl (fun u x => u.bodyStep x) s.enterBody
          (t.body.escp = false ∧ t.body.rxovf = false ∧ 1 ≤ t.body.rxcnt ∧ t.body.bccacc = 0x00 →
            ∃ p : List Byte, p.length = t.body.rxcnt - 1 ∧ (∀ i, i < p.length → p[i]? = t.rxbuf.read i) ∧
              exec (.decInfo f) s
                = .next { s with codecOut := .info (run head).addr ((run head).ctrl.getLsbD 6) p }) ∧
          (¬(t.body.escp = false ∧ t.body.rxovf = false ∧ 1 ≤ t.body.rxcnt ∧ t.body.bccacc = 0x00) →
            exec (.decInfo f) s = .next { s with codecOut := .checksumMismatch })

/-- R113: STUFF, and the helpers stuffSeq and escCount. -/
def Obligations.StuffingLaws : Prop :=
  stuff 0x5C = [0x5D, 0x7C] ∧ stuff 0x5D = [0x5D, 0x7D] ∧
    (∀ b : Byte, b ≠ 0x5C → b ≠ 0x5D → stuff b = [b]) ∧
    (∀ b : Byte, FLAG ∉ stuff b ∧ ∀ i : Nat, (stuff b)[i]? = some ESC → i = 0 ∧ (stuff b).length = 2) ∧
    ∀ s : List Byte, stuffSeq s = (s.map stuff).flatten ∧
      escCount s = s.countP (fun b => b == FLAG || b == ESC) ∧ (stuffSeq s).length = s.length + escCount s

/-- R80, R83, R116: an information frame begins and ends with FLAG and holds no other; in it every ESC is followed by 0x7C or
0x7D; its length. -/
def Obligations.InformationFrameShape : Prop :=
  ∀ (a : Byte) (b : Bool) (p : List Byte), a ∈ [A_TX, A_RX] →
    (∀ i : Nat, (encInfo a b p)[i]? = some FLAG ↔ i = 0 ∨ i + 1 = (encInfo a b p).length) ∧
    (∀ i : Nat, (encInfo a b p)[i]? = some ESC →
      (encInfo a b p)[i + 1]? = some 0x7C ∨ (encInfo a b p)[i + 1]? = some 0x7D) ∧
    (encInfo a b p).length = 6 + p.length + encInfoEsc p ∧ 6 ≤ (encInfo a b p).length ∧
    (encInfo a b p).length ≤ 2 * p.length + 7

/-- R121: the round-trip law. That DEC_INFO's value stands in codecOut is the model's choice (log 9). -/
def Obligations.RoundTrip : Prop :=
  ∀ (s : State) (a : Byte) (b : Bool) (p : List Byte), a ∈ [A_TX, A_RX] → p.length ≤ s.build.maxPayload →
    exec (.decInfo (encInfo a b p)) s = .next { s with codecOut := .info a b p }

/-- R120, R122, R132: DEC_INFO passes over what stands before a frame's last opening FLAG and consumes nothing after the
closing one. -/
def Obligations.DecodeAmongNoise : Prop :=
  ∀ (n k : Nat) (noise after : List Byte) (a : Byte) (b : Bool) (p : List Byte), FLAG ∉ noise → a ∈ [A_TX, A_RX] →
    p.length ≤ n → decInfo n (noise ++ List.replicate k FLAG ++ encInfo a b p ++ after) = .info a b p

/-- R118, R119: one body byte, as an operation on the state: the closing check at a FLAG; an ESC; a byte that yields the data
byte d, which is stored in RXBUF at index RXCNT unless RXBUF is full. R36, R37: the count of destuffed bytes consumed starts
at 0, goes up by 1 with each byte that yields one, and saturates at MAX_PAYLOAD + 2; RXOVF is set by the byte that finds RXCNT
at MAX_PAYLOAD + 1. That bodyOk stands in codecOut, and that R36's count is RXCNT of R118 and RXOVF together, is the model's
(logs 9, 17). R118 performs it while OP is ReadBody; that it does the same in every other position is the model's choice
(log 29). -/
def Obligations.BodyByteStep : Prop :=
  (∀ (s : State) (x : Byte),
    (x = FLAG → exec (.decBody x) s = .next { s with
      codecOut := .verdict
        (decide (s.body.escp = false ∧ s.body.rxovf = false ∧ 1 ≤ s.body.rxcnt ∧ s.body.bccacc = 0x00)) }) ∧
    (x ≠ FLAG → s.body.escp = false → x = ESC →
      exec (.decBody x) s = .next { s with body := { s.body with escp := true } }) ∧
    ∀ d, x ≠ FLAG → (s.body.escp = true ∧ d = x ^^^ ESC_XOR ∨ s.body.escp = false ∧ x ≠ ESC ∧ d = x) →
      (s.body.rxcnt ≤ s.build.maxPayload → ∃ m : Memory,
        (∀ i, m.read i = if i = s.body.rxcnt then some d else s.rxbuf.read i) ∧
        exec (.decBody x) s = .next { s with
          body := { s.body with escp := false, bccacc := s.body.bccacc ^^^ d, rxcnt := s.body.rxcnt + 1 }
          rxbuf := m }) ∧
      (s.build.maxPayload < s.body.rxcnt → exec (.decBody x) s = .next { s with
        body := { s.body with escp := false, bccacc := s.body.bccacc ^^^ d, rxovf := true } })) ∧
  (∀ s : State, s.enterBody.body.consumed = 0) ∧
    ∀ (s : State) (x : Byte), s.body.rxcnt ≤ s.build.maxPayload + 1 →
      (s.body.rxovf = true → s.body.rxcnt = s.build.maxPayload + 1) →
      ∃ t, exec (.decBody x) s = .next t ∧
        t.body.consumed = min (s.build.maxPayload + 2)
          (s.body.consumed + if x ≠ FLAG ∧ (s.body.escp = true ∨ x ≠ ESC) then 1 else 0) ∧
        (t.body.rxovf = true ↔ s.body.rxovf = true ∨
          x ≠ FLAG ∧ (s.body.escp = true ∨ x ≠ ESC) ∧ s.body.rxcnt = s.build.maxPayload + 1)

/-! ## The receiver FSM (R130 to R144) -/

/-- R140, R141: the transition table, for any VA and EC, the tests in the order of R140; it writes FSM, ADDR and CTRL and
nothing else. R130 applies it while OP is OpenWait, WriteWait, ReadHeader or CloseWait; that it does the same while OP is Idle
or ReadBody is the model's choice (log 29), and so is the table on a VA or an EC that R137 does not give (log 30). -/
def Obligations.FsmTransitionTable : Prop :=
  ∀ (s : State) (x : Byte) (va ec : List Byte),
    (s.rcv.fsm = .awaitFlag → exec (.fsmStep x va ec) s
      = .next { s with rcv := { s.rcv with fsm := if x = FLAG then .awaitAddress else .awaitFlag } }) ∧
    (s.rcv.fsm = .awaitAddress → exec (.fsmStep x va ec) s = .next { s with rcv :=
      if x ∈ va then { s.rcv with fsm := .awaitControl, addr := x }
      else { s.rcv with fsm := if x = FLAG then .awaitAddress else .awaitFlag } }) ∧
    (s.rcv.fsm = .awaitControl → exec (.fsmStep x va ec) s = .next { s with rcv :=
      if x ∈ ec then { s.rcv with fsm := .awaitBcc1, ctrl := x }
      else { s.rcv with fsm := if x = FLAG then .awaitAddress else .awaitFlag } }) ∧
    (s.rcv.fsm = .awaitBcc1 → exec (.fsmStep x va ec) s = .next { s with rcv := { s.rcv with fsm :=
      if x = s.rcv.addr ^^^ s.rcv.ctrl then
        (if s.rcv.ctrl = 0x80 ∨ s.rcv.ctrl = 0xC0 then .done else .awaitTrailingFlag)
      else if x = FLAG then .awaitAddress else .awaitFlag } }) ∧
    (s.rcv.fsm = .awaitTrailingFlag → exec (.fsmStep x va ec) s
      = .next { s with rcv := { s.rcv with fsm := if x = FLAG then .done else .awaitFlag } })

/-- R142, "A run ends in Done only if ...": what the bytes of a run that ends at byte x were, and what ADDR and CTRL hold.
That a VA or an EC that R137 does not give runs the same table is the model's choice (log 30). -/
def Obligations.AcceptanceOnlyOfFrames : Prop :=
  ∀ (va ec bs : List Byte) (x : Byte) (r : Receiver), r.fsm = .awaitFlag →
    (bs.foldl (fun r y => fsmNext va ec y r) r).fsm ≠ .done →
    ((bs ++ [x]).foldl (fun r y => fsmNext va ec y r) r).fsm = .done →
    ∃ (before : List Byte) (a c : Byte), a ∈ va ∧ c ∈ ec ∧
      (bs ++ [x]).foldl (fun r y => fsmNext va ec y r) r = { fsm := .done, addr := a, ctrl := c } ∧
      (isInfo c = false ∧ bs ++ [x] = before ++ [FLAG, a, c, a ^^^ c, FLAG] ∨
        isInfo c = true ∧ bs ++ [x] = before ++ [FLAG, a, c, a ^^^ c])

/-- R138, R141, R142, R262: noise ahead of an undamaged frame that is expected does not make a run miss it, unless the noise
itself spells an expected frame up to its closing FLAG (then the wanted frame's FLAG completes that one). That an EC of more
codes than R137 gives runs the same table is the model's choice (log 30). -/
def Obligations.NoFrameMissed : Prop :=
  ∀ (ec noise : List Byte) (a c : Byte) (r : Receiver), r.fsm = .awaitFlag →
    ec ⊆ controlCodes → a ∈ validAddresses → c ∈ ec →
    (noise.foldl (fun r y => fsmNext validAddresses ec y r) r).fsm ≠ .done →
    (noise.foldl (fun r y => fsmNext validAddresses ec y r) r).fsm ≠ .awaitTrailingFlag →
    (noise ++ [FLAG, a, c, a ^^^ c] ++ if isInfo c then [] else [FLAG]).foldl
      (fun r y => fsmNext validAddresses ec y r) r = { fsm := .done, addr := a, ctrl := c }

/-! ## The host commands (R150 to R152, R156, R157, R170 to R172, R177 to R179, R229, R237) -/

/-- R101, R229: every refusing condition; a refused command writes OP, RESULT and TARMED and pulses `done`. -/
def Obligations.RefusedCommands : Prop :=
  ∀ (s : State) (i : Instr), s.op = .idle →
    (i = .cmdReserved0 ∨ i = .cmdReserved5 ∨ i = .cmdReserved6 ∨ i = .cmdReserved7 ∨
      i = .cmdOpen ∧ (s.openf = true ∨ s.cfgTries = 0 ∨ s.cfgTimeout = 0) ∨
      i = .cmdWrite ∧ (s.openf = false ∨ s.build.maxPayload < s.txlen) ∨
      i = .cmdRead ∧ s.openf = false ∨ (∃ collect, i = .cmdClose collect) ∧ s.openf = false) →
    exec i s = .next { s with tarmed := false, op := .idle, result := .refused, done := true }

/-- R151, R152: OPEN accepted. -/
def Obligations.OpenStarts : Prop :=
  ∀ s : State, s.op = .idle → s.openf = false → s.cfgTries ≠ 0 → s.cfgTimeout ≠ 0 →
    exec .cmdOpen s = .next { s with
      role := s.cfgRole, numTries := s.cfgTries, timeOut := s.cfgTimeout
      stat := { Stats.zero with bytesSent := if s.cfgRole = .initiator then 5 % 2 ^ s.build.cntW else 0 }
      txbit := false, rxbit := false, retry := 0, result := .none
      tx := s.tx ++ if s.cfgRole = .initiator then [0x5C, 0x01, 0x07, 0x06, 0x5C] else []
      rcv := { s.rcv with fsm := .awaitFlag }, tmr := s.cfgTimeout, tarmed := true, op := .openWait }

/-- R156, R157: CLOSE accepted. -/
def Obligations.CloseStarts : Prop :=
  ∀ (s : State) (collect : Bool), s.op = .idle → s.openf = true → s.stat.bytesSent < 2 ^ s.build.cntW →
    exec (.cmdClose collect) s = .next { s with
      collect := collect, retry := 0, result := .none
      tx := s.tx ++ if s.role = .initiator then [0x5C, 0x01, 0x0A, 0x0B, 0x5C] else []
      stat := { s.stat with bytesSent :=
        (s.stat.bytesSent + if s.role = .initiator then 5 else 0) % 2 ^ s.build.cntW }
      rcv := { s.rcv with fsm := .awaitFlag }, tmr := s.timeOut, tarmed := true, op := .closeWait }

/-- R171, R172, R66: WRITE accepted. P is what TXBUF[0 .. TXLEN-1] holds; a location that holds no value gives some byte
(log 5). FRAMEBUF holds the frame F, and its other locations keep what they held. -/
def Obligations.WriteStarts : Prop :=
  ∀ s : State, s.op = .idle → s.openf = true → s.txlen ≤ s.build.maxPayload →
    ∃ (p : List Byte) (m : Memory),
      let f := encInfo (cmdAddr s.role) s.txbit p
      (p.length = s.txlen ∧ ∀ i b, i < s.txlen → s.txbuf.read i = some b → p[i]? = some b) ∧
      (∀ i, m.read i = if i < f.length then f[i]? else s.framebuf.read i) ∧
      exec .cmdWrite s = .next { s with
        framebuf := m, framelen := f.length, result := .none, retry := 0
        stat := { s.stat with
          escaped := (s.stat.escaped + encInfoEsc p) % 2 ^ s.build.cntW
          bytesSent := (s.stat.bytesSent + f.length) % 2 ^ s.build.cntW }
        tx := s.tx ++ f
        rcv := { s.rcv with fsm := .awaitFlag }, tmr := s.timeOut, tarmed := true, op := .writeWait }

/-- R178, R179: READ accepted: the timer is not armed and RETRY is not touched. (`delivered` is the model's note of R65 that
RXBUF is scratch from here on: log 6.) -/
def Obligations.ReadStarts : Prop :=
  ∀ s : State, s.op = .idle → s.openf = true →
    exec .cmdRead s = .next { s with
      result := .none, rcv := { s.rcv with fsm := .awaitFlag }, op := .readHeader, delivered := false }

/-- R237: while OP is not Idle a write of CMD is not taken and is not remembered: no command word that stands there changes
anything, and the host's write of register 0 leaves none standing. -/
def Obligations.CommandsNotTakenWhileBusy : Prop :=
  ∀ (s : State) (w : Nat), s.op ≠ .idle →
    exec (decodeCommand w) s = .next s ∧
    ∀ rest, s.Quiet → s.inputs = .regWrite 0 w :: rest → step s = .next (s.afterMove rest)

/-! ## Wire codes: the operation's action on an accepted frame, as an instruction (R136; log 12) -/

/-- R117, R136, R153, R158, R180: SET, DISC and UA where the run in progress expects them. FSM is Done and CTRL holds the code; the
reply, and the end of the operation. I0, I1 and I(s) of the receive bit while READ looks for a header: the body decoder is
entered. The meaning of the bare code as an instruction is the model's reading (log 12). -/
def Obligations.ExpectedCodesAct : Prop :=
  ∀ s : State,
    (s.op = .openWait → exec .set s = .next { s with
      rcv := { s.rcv with fsm := .done, ctrl := 0x07 }
      tx := s.tx ++ [0x5C, replyAddr s.role, 0x06, replyAddr s.role ^^^ 0x06, 0x5C]
      stat := { s.stat with bytesSent := (s.stat.bytesSent + 5) % 2 ^ s.build.cntW }
      tarmed := false, openf := true, op := .idle, result := .ok, done := true }) ∧
    (s.op = .closeWait → exec .disc s = .next { s with
      rcv := { s.rcv with fsm := .done, ctrl := 0x0A }
      tx := s.tx ++ [0x5C, replyAddr s.role, 0x06, replyAddr s.role ^^^ 0x06, 0x5C]
      stat := { s.stat with bytesSent := (s.stat.bytesSent + 5) % 2 ^ s.build.cntW }
      tarmed := false, openf := false, statsValid := s.statsValid || s.collect
      op := .idle, result := .ok, done := true }) ∧
    (s.op = .openWait → exec .ua s = .next { s with
      rcv := { s.rcv with fsm := .done, ctrl := 0x06 }
      tarmed := false, openf := true, op := .idle, result := .ok, done := true }) ∧
    (s.op = .closeWait → exec .ua s = .next { s with
      rcv := { s.rcv with fsm := .done, ctrl := 0x06 }
      tarmed := false, openf := false, statsValid := s.statsValid || s.collect
      op := .idle, result := .ok, done := true }) ∧
    ∀ (b : Bool) (i : Instr), s.op = .readHeader → s.rxbit = b →
      (i = .info b ∨ i = .i0 ∧ b = false ∨ i = .i1 ∧ b = true) →
      exec i s = .next { s with
        rcv := { s.rcv with fsm := .done, ctrl := infoCode b }
        body := { escp := false, bccacc := 0x00, rxcnt := 0, rxovf := false }
        op := .readBody }

/-- R136, R174, R175: RR and REJ of the send bit while WRITE waits, in each of their spellings. RETRY is compared after
the increment (R188); the frame resent is what FRAMEBUF holds (R66). Log 12. -/
def Obligations.AcknowledgementCodesAct : Prop :=
  ∀ (s : State) (b : Bool) (i : Instr), s.op = .writeWait → s.txbit = b → s.retry ≤ s.numTries →
    s.numTries < 2 ^ s.build.triesW →
    (i = .rr b ∨ i = .rr0 ∧ b = false ∨ i = .rr1 ∧ b = true →
      exec i s = .next { s with
        rcv := { s.rcv with fsm := .done, ctrl := rrCode b }
        tarmed := false, txbit := !b
        stat := { s.stat with framesSent := (s.stat.framesSent + 1) % 2 ^ s.build.cntW }
        op := .idle, result := .ok, done := true }) ∧
    (i = .rej b ∨ i = .rej0 ∧ b = false ∨ i = .rej1 ∧ b = true →
      (s.retry = s.numTries → exec i s = .next { s with
        rcv := { s.rcv with fsm := .done, ctrl := rejCode b }
        stat := { s.stat with rejRecv := (s.stat.rejRecv + 1) % 2 ^ s.build.cntW }
        retry := s.retry + 1, tarmed := false, op := .idle, result := .retriesExhausted, done := true }) ∧
      (s.retry < s.numTries → exec i s = .next { s with
        rcv := { s.rcv with fsm := .awaitFlag, ctrl := rejCode b }
        stat := { s.stat with
          rejRecv := (s.stat.rejRecv + 1) % 2 ^ s.build.cntW
          bytesSent := (s.stat.bytesSent + s.framelen) % 2 ^ s.build.cntW }
        retry := s.retry + 1, tx := s.tx ++ s.framebuf.readList .framebuf s.fresh 0 s.framelen
        tmr := s.timeOut, tarmed := true }))

/-- R61, R95, R133, R143: a wire code where it is not expected: a running FSM resyncs, which changes FSM only; with no run in
progress nothing changes. The reading of a bare code as an instruction is the model's (log 13). -/
def Obligations.UnexpectedCodesSkipped : Prop :=
  ∀ (s : State) (i : Instr) (c : Byte), encode i = some (.control c) →
    (s.op = .openWait → c ≠ 0x07 → c ≠ 0x06 → exec i s = .next { s with rcv := { s.rcv with fsm := .awaitFlag } }) ∧
    (s.op = .closeWait → c ≠ 0x0A → c ≠ 0x06 → exec i s = .next { s with rcv := { s.rcv with fsm := .awaitFlag } }) ∧
    (s.op = .writeWait → c ≠ rrCode s.txbit → c ≠ rejCode s.txbit →
      exec i s = .next { s with rcv := { s.rcv with fsm := .awaitFlag } }) ∧
    (s.op = .readHeader → c ≠ infoCode s.rxbit → exec i s = .next { s with rcv := { s.rcv with fsm := .awaitFlag } }) ∧
    (s.op = .idle ∨ s.op = .readBody → exec i s = .next s)

/-! ## The byte steps of the operations (R153, R158, R173 to R175, R180 to R182) -/

/-- R153, R158, R210: the step on a byte of OPEN and of CLOSE. -/
def Obligations.LifecycleByteSteps : Prop :=
  ∀ (s : State) (x : Byte) (rest : List Byte), s.Sequenced → s.Offers x rest →
    (s.op = .openWait →
      let u := { s.afterTaking rest with rcv := fsmNext [A_TX, A_RX] [SET, UA] x s.rcv }
      (u.rcv.fsm ≠ .done → step s = .next u) ∧
      (u.rcv.fsm = .done → u.rcv.ctrl = SET → step s = .next { u with
        tx := s.tx ++ encCtrl (replyAddr s.role) UA
        stat := { u.stat with bytesSent := (s.stat.bytesSent + 5) % 2 ^ s.build.cntW }
        tarmed := false, openf := true, op := .idle, result := .ok, done := true }) ∧
      (u.rcv.fsm = .done → u.rcv.ctrl ≠ SET → u.rcv.ctrl = UA ∧ step s = .next { u with
        tarmed := false, openf := true, op := .idle, result := .ok, done := true })) ∧
    (s.op = .closeWait →
      let u := { s.afterTaking rest with rcv := fsmNext [A_TX, A_RX] [DISC, UA] x s.rcv }
      (u.rcv.fsm ≠ .done → step s = .next u) ∧
      (u.rcv.fsm = .done → u.rcv.ctrl = DISC → step s = .next { u with
        tx := s.tx ++ encCtrl (replyAddr s.role) UA
        stat := { u.stat with bytesSent := (s.stat.bytesSent + 5) % 2 ^ s.build.cntW }
        tarmed := false, openf := false, statsValid := s.collect, op := .idle, result := .ok, done := true }) ∧
      (u.rcv.fsm = .done → u.rcv.ctrl ≠ DISC → u.rcv.ctrl = UA ∧ step s = .next { u with
        tarmed := false, openf := false, statsValid := s.collect, op := .idle, result := .ok, done := true }))

/-- R173 to R175: WRITE's step on a byte. -/
def Obligations.WriteByteStep : Prop :=
  ∀ (s : State) (x : Byte) (rest : List Byte), s.Sequenced → s.Budgeted → s.InWidth → s.op = .writeWait →
    s.Offers x rest →
    let u := { s.afterTaking rest with rcv := fsmNext [A_TX, A_RX] [rrCode s.txbit, rejCode s.txbit] x s.rcv }
    (u.rcv.fsm ≠ .done → step s = .next u) ∧
    (u.rcv.fsm = .done → u.rcv.ctrl = rrCode s.txbit → step s = .next { u with
      txbit := !s.txbit
      stat := { u.stat with framesSent := (s.stat.framesSent + 1) % 2 ^ s.build.cntW }
      tarmed := false, op := .idle, result := .ok, done := true }) ∧
    (u.rcv.fsm = .done → u.rcv.ctrl ≠ rrCode s.txbit → u.rcv.ctrl = rejCode s.txbit ∧
      (s.numTries < s.retry + 1 → step s = .next { u with
        stat := { u.stat with rejRecv := (s.stat.rejRecv + 1) % 2 ^ s.build.cntW }
        retry := s.retry + 1, tarmed := false, op := .idle, result := .retriesExhausted, done := true }) ∧
      (s.retry + 1 ≤ s.numTries → step s = .next { u with
        stat := { u.stat with
          rejRecv := (s.stat.rejRecv + 1) % 2 ^ s.build.cntW
          bytesSent := (s.stat.bytesSent + s.framelen) % 2 ^ s.build.cntW }
        retry := s.retry + 1, tx := s.tx ++ s.framebuf.readList .framebuf s.fresh 0 s.framelen
        rcv := { u.rcv with fsm := .awaitFlag }, tmr := s.timeOut, tarmed := true }))

/-- R117 to R119, R180 to R182: READ's step on a byte. While it looks for a header: the FSM, and at Done the body decoder's
entry. In the body: the body decoder's step, and at the closing FLAG the body is accepted and acknowledged with the bit
just accepted, or rejected with REJ of the bit kept. The values of codecOut and delivered are the model's (logs 9, 6). -/
def Obligations.ReadByteSteps : Prop :=
  ∀ (s : State) (x : Byte) (rest : List Byte), s.Sequenced → s.Offers x rest →
    (s.op = .readHeader →
      let u := { s.afterTaking rest with rcv := fsmNext [A_TX, A_RX] [infoCode s.rxbit] x s.rcv }
      (u.rcv.fsm ≠ .done → step s = .next u) ∧
      (u.rcv.fsm = .done → u.rcv.ctrl = infoCode s.rxbit ∧ step s = .next { u with
        body := { escp := false, bccacc := 0x00, rxcnt := 0, rxovf := false }, op := .readBody })) ∧
    (s.op = .readBody → x ≠ FLAG → step s = exec (.decBody x) (s.afterTaking rest)) ∧
    (s.op = .readBody → x = FLAG →
      s.body.escp = false ∧ s.body.rxovf = false ∧ 1 ≤ s.body.rxcnt ∧ s.body.bccacc = 0x00 →
      step s = .next { s.afterTaking rest with
        codecOut := .verdict true
        rxbit := !s.rxbit
        tx := s.tx ++ encCtrl (replyAddr s.role) (rrCode s.rxbit)
        stat := { (s.afterTaking rest).stat with
          bytesSent := (s.stat.bytesSent + 5) % 2 ^ s.build.cntW
          framesRecv := (s.stat.framesRecv + 1) % 2 ^ s.build.cntW }
        rxlen := s.body.rxcnt - 1, delivered := true
        tarmed := false, op := .idle, result := .ok, done := true }) ∧
    (s.op = .readBody → x = FLAG →
      ¬(s.body.escp = false ∧ s.body.rxovf = false ∧ 1 ≤ s.body.rxcnt ∧ s.body.bccacc = 0x00) →
      step s = .next { s.afterTaking rest with
        codecOut := .verdict false
        tx := s.tx ++ encCtrl (replyAddr s.role) (rejCode s.rxbit)
        stat := { (s.afterTaking rest).stat with
          bytesSent := (s.stat.bytesSent + 5) % 2 ^ s.build.cntW
          rejSent := (s.stat.rejSent + 1) % 2 ^ s.build.cntW }
        rcv := { s.rcv with fsm := .awaitFlag }, op := .readHeader })

/-! ## Timer, Timeout, transport error, reset (R154, R159, R176, R185 to R189, R232, R250) -/

/-- R186, R187: the two timer operations, and their frame. R189, R228: Timeout is not enabled unless TARMED is 1; the last
clause is about states no run reaches (R33) and is the model's choice (log 19). R186 and R187 list where ARM_TIMER and
DISARM_TIMER are called; that they do the same in every other position is the model's choice (log 29). -/
def Obligations.TimerOperations : Prop :=
  ∀ s : State, exec .armTimer s = .next { s with tmr := s.timeOut, tarmed := true } ∧
    exec .disarmTimer s = .next { s with tarmed := false } ∧
    (s.tarmed = false → exec .timeout s = .next s) ∧
    (s.tarmed = true → s.op = .idle ∨ s.op = .readHeader ∨ s.op = .readBody →
      exec .timeout s = .next { s with tmr := 0, tarmed := false })

/-- R154, R159, R176, R188, R210: the step on a Timeout of OPEN, CLOSE and WRITE: counted; RETRY incremented and compared; the
operation fails, or its frame is sent again and a new attempt starts. That TMR and TARMED fall to 0 in this step is the
model's reading (log 18), and that TIMEOUT run before TMR is 0 does the same is its choice (log 29). -/
def Obligations.TimeoutSteps : Prop :=
  ∀ s : State, s.Budgeted → s.InWidth → s.tarmed = true →
    let u := { s with
      stat := { s.stat with timeouts := (s.stat.timeouts + 1) % 2 ^ s.build.cntW }, retry := s.retry + 1 }
    (s.op = .openWait ∨ s.op = .writeWait → s.numTries < s.retry + 1 → exec .timeout s = .next { u with
      tmr := 0, tarmed := false, op := .idle, result := .retriesExhausted, done := true }) ∧
    (s.op = .closeWait → s.numTries < s.retry + 1 → exec .timeout s = .next { u with
      tmr := 0, tarmed := false, openf := false, statsValid := s.statsValid || s.collect
      op := .idle, result := .retriesExhausted, done := true }) ∧
    ∀ f : List Byte,
      (s.op = .openWait ∧ s.role = .initiator ∧ f = [0x5C, 0x01, 0x07, 0x06, 0x5C] ∨
        s.op = .closeWait ∧ s.role = .initiator ∧ f = [0x5C, 0x01, 0x0A, 0x0B, 0x5C] ∨
        (s.op = .openWait ∨ s.op = .closeWait) ∧ s.role = .responder ∧ f = [] ∨
        s.op = .writeWait ∧ f = s.framebuf.readList .framebuf s.fresh 0 s.framelen) →
      s.retry + 1 ≤ s.numTries → exec .timeout s = .next { u with
        stat := { u.stat with bytesSent := (s.stat.bytesSent + f.length) % 2 ^ s.build.cntW }
        tx := s.tx ++ f
        rcv := { s.rcv with fsm := .awaitFlag }, tmr := s.timeOut, tarmed := true }

/-- R185, R33, R231: a tick while TARMED is 1 takes 1 from TMR; the tick that brings it to 0 makes the Timeout event follow
in the next step; ticks while TARMED is 0 do nothing. That TARMED falls in the Timeout's own step is the model's reading
(log 18). -/
def Obligations.TickCountsDown : Prop :=
  ∀ (s : State) (rest : List Input), s.Quiet → s.inputs = .instant false false [] false true none :: rest →
    (s.tarmed = false → step s = .next (s.afterMove rest)) ∧
    (s.tarmed = true → step s = .next { s.afterMove rest with tmr := s.tmr - 1 }) ∧
    (s.tarmed = true → s.tmr = 1 → ∀ t, step s = .next t → step t = exec .timeout t)

/-- R228, R232: the transport error. -/
def Obligations.TransportErrorEnds : Prop :=
  ∀ s : State,
    (s.op ≠ .idle → exec .xportErr s = .next { s with
      openf := s.openf && !decide (s.op = .closeWait)
      tarmed := false, op := .idle, result := .transportError, done := true }) ∧
    (s.op = .idle → exec .xportErr s = .next s)

/-- R250: the Reset event: every register at R45's value, the buffers holding no value, nothing sent, no pulse, the
Transport's bytes untouched. What stays beside the streams is not the block's own (log 25). -/
def Obligations.ResetEvent : Prop :=
  ∀ s : State, exec .reset s = .next {
    cfgRole := .initiator, cfgTries := 0, cfgTimeout := 0, role := .initiator, numTries := 0, timeOut := 0
    collect := false, openf := false, rcv := { fsm := .awaitFlag, addr := 0x00, ctrl := 0x00 }, op := .idle
    txbit := false, rxbit := false, retry := 0, tmr := 0, tarmed := false
    body := { escp := false, bccacc := 0x00, rxcnt := 0, rxovf := false }
    result := .none, txlen := 0, rxlen := 0, framelen := 0
    stat := { framesSent := 0, framesRecv := 0, rejSent := 0, rejRecv := 0, timeouts := 0, escaped := 0,
              bytesSent := 0, bytesRecv := 0 }
    txbuf := [], rxbuf := [], framebuf := [], rx := s.rx, tx := s.tx, done := false, statsValid := false
    rdata := s.rdata, pend := s.pend, build := s.build, inputs := s.inputs, codecOut := s.codecOut
    fresh := s.fresh + 1, delivered := false }

/-- R45: the state after reset. -/
def Obligations.StateAtReset : Prop :=
  State.reset.cfgRole = .initiator ∧ State.reset.cfgTries = 0 ∧ State.reset.cfgTimeout = 0 ∧
    State.reset.role = .initiator ∧ State.reset.numTries = 0 ∧ State.reset.timeOut = 0 ∧
    State.reset.collect = false ∧ State.reset.openf = false ∧
    State.reset.rcv = { fsm := .awaitFlag, addr := 0x00, ctrl := 0x00 } ∧ State.reset.op = .idle ∧
    State.reset.txbit = false ∧ State.reset.rxbit = false ∧ State.reset.retry = 0 ∧ State.reset.tmr = 0 ∧
    State.reset.tarmed = false ∧
    State.reset.body = { escp := false, bccacc := 0x00, rxcnt := 0, rxovf := false } ∧
    State.reset.result = .none ∧ State.reset.txlen = 0 ∧ State.reset.rxlen = 0 ∧ State.reset.framelen = 0 ∧
    State.reset.stat = { framesSent := 0, framesRecv := 0, rejSent := 0, rejRecv := 0, timeouts := 0, escaped := 0,
                         bytesSent := 0, bytesRecv := 0 } ∧
    (∀ i, State.reset.txbuf.read i = none ∧ State.reset.rxbuf.read i = none ∧ State.reset.framebuf.read i = none) ∧
    State.reset.done = false

/-! ## What a step fetches and runs (R228, R231, R136) -/

/-- R136, R228, R231: the event taken among those ready is, in this order, Reset, XportErr, RxByte, Timeout, Cmd, and the step
runs the decoded instruction: of the event; of a command word in CMD; of the byte at the head of the RX stream, by FSM_STEP
or DEC_BODY; of the control code in CTRL in the very step that makes FSM Done; of a whole frame that is the environment's
next move. Around it the step clears the outputs and the event's line, takes the byte off the stream and counts it. The whole frame
as one move is the model's (log 15). That a Timeout is due while TARMED is 1 and TMR is 0, and that a word in CMD was judged by
OP when it was written, are the model's readings (logs 18, 27). -/
def Obligations.StepRunsInstruction : Prop :=
  ∀ (s : State) (i : Instr),
    let u := { s with done := false, statsValid := false }
    (s.pend.rst = true → step s = exec .reset { u with pend := { s.pend with rst := false } }) ∧
    (s.pend.rst = false → s.pend.xportErr = true →
      step s = exec .xportErr { u with pend := { s.pend with xportErr := false } }) ∧
    (s.pend.rst = false → s.pend.xportErr = false → (s.pend.rxValid = false ∨ s.op = .idle ∨ s.rx = []) →
      (s.tarmed = true → s.tmr = 0 → step s = exec .timeout u) ∧
      (s.tarmed = false ∨ s.tmr ≠ 0 → ∀ w, s.pend.cmd = some w → decode (.command w) = .ok i →
        step s = exec i { u with pend := { s.pend with cmd := none } })) ∧
    (∀ x rest, s.Offers x rest → s.op ≠ .readBody → s.rcv.fsm ≠ .done →
      ∀ t, exec (.fsmStep x validAddresses s.expected) (s.afterTaking rest) = .next t →
        (t.rcv.fsm ≠ .done → step s = .next t) ∧
        (t.rcv.fsm = .done → decode (.control t.rcv.ctrl) = .ok i → step s = exec i t)) ∧
    (∀ x rest, s.Offers x rest → s.op = .readBody → x ≠ FLAG → step s = exec (.decBody x) (s.afterTaking rest)) ∧
    (∀ bs rest, s.Quiet → s.inputs = .line bs :: rest → decode (.frame bs) = .ok i →
      step s = exec i (s.afterMove rest))

/-! ## Whole frames (R81, R82, R181, R183; log 15) -/

/-- R61, R81, R82: while OP is Idle a frame that arrives stays in the Transport, behind the bytes held there. That
a frame row is the frame received is the model's reading (log 15); so are the bytes of operands that R81, R82, R86 and R87 do
not give (log 30). -/
def Obligations.FramesWaitWhileIdle : Prop :=
  ∀ (s : State) (a : Byte), s.op = .idle →
    (∀ c, exec (.ctrlFrame a c) s = .next { s with rx := s.rx ++ [0x5C, a, c, a ^^^ c, 0x5C] }) ∧
    ∀ b p, exec (.infoFrame a b p) s = .next { s with rx := s.rx ++ encInfo a b p }

/-- R81, R136, R142, R208: a whole control frame that the run in progress expects is accepted: its five bytes are counted,
ADDR is its address, and the instruction its control byte names runs (log 15, as above). -/
def Obligations.ControlFrameRuns : Prop :=
  ∀ (s : State) (a c : Byte) (i : Instr), s.op.runsFsm = true → s.rx = [] →
    (s.rcv.fsm = .awaitFlag ∨ s.rcv.fsm = .awaitAddress) →
    a ∈ validAddresses → c ∈ s.expected → isInfo c = false → decode (.control c) = .ok i →
    ∃ t,
      exec i { s with
        done := false, statsValid := false
        rcv := { fsm := .done, addr := a, ctrl := c }
        stat := { s.stat with bytesRecv := (s.stat.bytesRecv + 5) % 2 ^ s.build.cntW } } = .next t ∧
      exec (.ctrlFrame a c) s = .next t

/-- R82, R119, R121, R177, R181: an information frame of the expected bit that arrives whole while READ looks for a header is
delivered: RXBUF holds the payload, RXLEN its length, RR of its bit is sent, RXBIT flips, READ ends with Ok. The frame as
one instruction, codecOut and delivered are the model's (logs 15, 9, 6). -/
def Obligations.InformationFrameDelivered : Prop :=
  ∀ (s : State) (a : Byte) (p : List Byte), s.op = .readHeader → s.rx = [] →
    (s.rcv.fsm = .awaitFlag ∨ s.rcv.fsm = .awaitAddress) → a ∈ validAddresses → p.length ≤ s.build.maxPayload →
    ∃ t : State, exec (.infoFrame a s.rxbit p) s = .next t ∧
      (∀ i, t.rxbuf.read i =
        if i < p.length then p[i]? else if i = p.length then some (xorFold p) else s.rxbuf.read i) ∧
      t = { s with
        rcv := { fsm := .done, addr := a, ctrl := infoCode s.rxbit }
        body := { escp := false, bccacc := 0x00, rxcnt := p.length + 1, rxovf := false }
        rxbuf := t.rxbuf, rxlen := p.length, rxbit := !s.rxbit
        tx := s.tx ++ encCtrl (replyAddr s.role) (rrCode s.rxbit)
        stat := { s.stat with
          bytesRecv := (s.stat.bytesRecv + (encInfo a s.rxbit p).length) % 2 ^ s.build.cntW
          framesRecv := (s.stat.framesRecv + 1) % 2 ^ s.build.cntW
          bytesSent := (s.stat.bytesSent + 5) % 2 ^ s.build.cntW }
        codecOut := .verdict true, delivered := true, tarmed := false, op := .idle, result := .ok
        done := true, statsValid := false }

/-- R183: a frame that carries the other bit is dropped whole: its bytes are counted, nothing is sent, nothing is delivered,
READ goes on; its closing FLAG leaves the FSM in AwaitAddress (R131; log 15, as above). The frame of a payload longer than
MAX_PAYLOAD is the model's (log 30). -/
def Obligations.DuplicateDropped : Prop :=
  ∀ (s : State) (a : Byte) (p : List Byte), s.op = .readHeader → s.rx = [] →
    (s.rcv.fsm = .awaitFlag ∨ s.rcv.fsm = .awaitAddress) → a ∈ validAddresses →
    exec (.infoFrame a (!s.rxbit) p) s = .next { s with
      rcv := { s.rcv with fsm := .awaitAddress, addr := a }
      stat := { s.stat with
        bytesRecv := (s.stat.bytesRecv + (encInfo a (!s.rxbit) p).length) % 2 ^ s.build.cntW }
      done := false, statsValid := false }

/-! ## Registers and buffers, as the host reaches them (R40, R64, R65) -/

/-- R21 to R23, R40, R41, 93 U9, U10: what the host reads from each numbered register, and that reading changes nothing else;
and the host's write: the RW registers take their field, CMD is taken while OP is Idle and stands until the next step (R99),
the others ignore the write. The numbers of R21 and R39 are written out. That TXLEN takes the whole word is the model's
choice (log 20). -/
def Obligations.RegisterAccess : Prop :=
  ∀ (s : State) (n : Nat) (rest : List Input), s.Quiet →
    (s.inputs = .regRead n :: rest →
      step s = .next { s.afterMove rest with rdata :=
        if n = 1 then (if s.cfgRole = .initiator then 0 else 1) else if n = 2 then s.cfgTries else if n = 3 then s.cfgTimeout
        else if n = 4 then s.statusWord
        else if n = 5 then
          (if s.result = .none then 0 else if s.result = .ok then 1 else if s.result = .retriesExhausted then 2
            else if s.result = .transportError then 3 else 4)
        else if n = 6 then s.retry
        else if n = 7 then s.rcv.addr.toNat + 256 * s.rcv.ctrl.toNat
        else if n = 8 then s.txlen else if n = 9 then s.rxlen
        else if n = 10 then s.stat.framesSent else if n = 11 then s.stat.framesRecv
        else if n = 12 then s.stat.rejSent else if n = 13 then s.stat.rejRecv
        else if n = 14 then s.stat.timeouts else if n = 15 then s.stat.escaped
        else if n = 16 then s.stat.bytesSent else if n = 17 then s.stat.bytesRecv
        else if n = 18 then s.tmr else if n = 19 then s.numTries else if n = 20 then s.timeOut
        else 0 }) ∧
    ∀ v : Nat, s.inputs = .regWrite n v :: rest →
      step s = .next { s.afterMove rest with
        pend := { Lines.clear with cmd := if n = 0 ∧ s.op = .idle then some v else none }
        cfgRole := if n = 1 then (if v.testBit 0 then .responder else .initiator) else s.cfgRole
        cfgTries := if n = 2 then v % 2 ^ s.build.triesW else s.cfgTries
        cfgTimeout := if n = 3 then v % 2 ^ s.build.timerW else s.cfgTimeout
        txlen := if n = 8 then v else s.txlen }

/-- R40: the fields of STATUS, each at its bits, and 0 above, with the numbers of OP (R27) and FSM (R26). -/
def Obligations.StatusFields : Prop :=
  ∀ s : State,
    s.statusWord.testBit 0 = s.openf ∧ s.statusWord.testBit 1 = decide (s.op ≠ .idle) ∧
    s.statusWord / 4 % 8 =
      (if s.op = .idle then 0 else if s.op = .openWait then 1 else if s.op = .writeWait then 2
        else if s.op = .readHeader then 3 else if s.op = .readBody then 4 else 5) ∧
    s.statusWord / 32 % 8 =
      (if s.rcv.fsm = .awaitFlag then 0 else if s.rcv.fsm = .awaitAddress then 1 else if s.rcv.fsm = .awaitControl then 2
        else if s.rcv.fsm = .awaitBcc1 then 3 else if s.rcv.fsm = .awaitTrailingFlag then 4 else 5) ∧
    s.statusWord.testBit 8 = s.txbit ∧ s.statusWord.testBit 9 = s.rxbit ∧ s.statusWord.testBit 10 = s.tarmed ∧
    s.statusWord.testBit 11 = s.body.escp ∧ s.statusWord.testBit 12 = s.body.rxovf ∧
    s.statusWord.testBit 13 = decide (s.role = .responder) ∧ s.statusWord.testBit 14 = s.collect ∧
    s.statusWord < 2 ^ 15

/-- R63, R64, R65, R267: the host's access to the buffers. A byte of RXBUF while it is unspecified is any value (log 6). At an
index the buffer does not have the block goes on (R220); what is read, and which byte of TXBUF a write changes, if one, are
open (log 8). -/
def Obligations.HostBufferAccess : Prop :=
  ∀ (s : State) (i : Nat) (rest : List Input), s.Quiet →
    (∀ b, s.inputs = .txbufWrite i b :: rest →
      (i < s.build.maxPayload → ∃ t, step s = .next t ∧ t = { s.afterMove rest with txbuf := t.txbuf } ∧
        ∀ k, t.txbuf.read k = if k = i then some b else s.txbuf.read k) ∧
      (s.build.maxPayload ≤ i →
        ∃ t, step s = .next t ∧ t = { s.afterMove rest with txbuf := t.txbuf, fresh := t.fresh } ∧
          ((∀ k, t.txbuf.read k = s.txbuf.read k) ∨
            ∃ j, j < s.build.maxPayload ∧ ∀ k, t.txbuf.read k = if k = j then some b else s.txbuf.read k))) ∧
    (s.inputs = .txbufRead i :: rest →
      ∃ v n, step s = .next { s.afterMove rest with rdata := v, fresh := n } ∧
        (i < s.build.maxPayload → n = s.fresh ∧ ∀ b, s.txbuf.read i = some b → v = b.toNat)) ∧
    (s.inputs = .rxbufRead i :: rest →
      ∃ v n, step s = .next { s.afterMove rest with rdata := v, fresh := n } ∧
        (s.delivered = true → i ≤ s.build.maxPayload → n = s.fresh ∧ ∀ b, s.rxbuf.read i = some b → v = b.toNat))

/-- R61, R63, R185, R228, R237: one instant of the environment: the bytes that arrive go behind those the Transport holds, a
pulse of `tick` counts, and the events raised stand in the lines for the steps that follow: `rst`, `xport_err`, a byte
offered only where the engine takes bytes, a write of CMD only while OP is Idle. An instant as one move is the model's
(log 3). That TARMED stays 1 at the tick that brings TMR to 0, where R185 clears it, is the model's reading (log 18); so is that a
write of CMD is judged by OP at the instant, though an event of that instant may end the operation (log 27). -/
def Obligations.InstantRaisesEvents : Prop :=
  ∀ (s : State) (rst xportErr : Bool) (arrive : List Byte) (rxValid tick : Bool) (cmd : Option Nat) (rest : List Input),
    s.Quiet → s.inputs = .instant rst xportErr arrive rxValid tick cmd :: rest →
    step s = .next { s.afterMove rest with
      rx := s.rx ++ arrive
      tmr := if tick = true ∧ s.tarmed = true then s.tmr - 1 else s.tmr
      pend := {
        rst := rst, xportErr := xportErr
        rxValid := if s.op = .idle then false else rxValid
        cmd := if s.op = .idle then cmd else none } }

/-! ## Rules about every step -/

/-- R61, R62, R207, R71 (a): a step only appends to the TX stream, and STAT.bytesSent counts what it appends, from 0 in the
step that accepts an OPEN (R152); but where no event is ready and the Transport takes a byte, which is the first of the
stream and nothing else. -/
def Obligations.SentBytesCounted : Prop :=
  (∀ s t : State, step s = .next t → s.pend.rst = false → ¬(s.Quiet ∧ ∃ rest, s.inputs = .txTake :: rest) →
    s.stat.bytesSent < 2 ^ s.build.cntW →
    ∃ sent : List Byte, t.tx = s.tx ++ sent ∧
      (t.stat.bytesSent = (s.stat.bytesSent + sent.length) % 2 ^ s.build.cntW ∨
        s.op = .idle ∧ t.op = .openWait ∧ t.stat.bytesSent = sent.length % 2 ^ s.build.cntW)) ∧
    ∀ (s : State) (rest : List Input), s.Quiet → s.inputs = .txTake :: rest →
      step s = .next { s.afterMove rest with tx := s.tx.tail }

/-- R61, R208: while OP is Idle the engine takes no byte: what the Transport holds stays, what arrives goes behind it, and
STAT.bytesRecv counts nothing; it falls to 0 at reset and in an accepted OPEN. -/
def Obligations.BytesWaitWhileIdle : Prop :=
  ∀ s t : State, step s = .next t → s.op = .idle →
    ∃ arrived : List Byte, t.rx = s.rx ++ arrived ∧
      (t.stat.bytesRecv = s.stat.bytesRecv ∨
        t.stat.bytesRecv = 0 ∧ (s.pend.rst = true ∨ t.op = .openWait))

/-- R39, R224, R240: what the end of an operation leaves: `done` is pulsed in exactly the step that ends it, RESULT holds an
outcome, the block is quiescent. R158 to R160, R210: `stats_valid` is pulsed only
with `done`, by a CLOSE with COLLECT = 1 that ends with Ok or RetriesExhausted. -/
def Obligations.FinishLeaves : Prop :=
  ∀ s t : State, s.Sequenced → step s = .next t →
    (t.done = true → t.op = .idle ∧ t.tarmed = false ∧ t.result ≠ .none) ∧
    (s.pend.rst = false → s.op ≠ .idle → t.op = .idle → t.done = true) ∧
    (t.done = true → s.op ≠ .idle ∨ t.result = .refused) ∧
    (t.statsValid = true → t.done = true ∧ s.op = .closeWait ∧ s.collect = true ∧ t.openf = false ∧
      (t.result = .ok ∨ t.result = .retriesExhausted))

/-- R25: OPENF rises only in an OPEN that ends with Ok; it falls only in a step that ends an accepted CLOSE, or at reset. -/
def Obligations.LifecycleFlagRule : Prop :=
  ∀ s t : State, s.Sequenced → step s = .next t →
    (s.openf = false → t.openf = true → s.op = .openWait ∧ t.op = .idle ∧ t.result = .ok ∧ t.done = true) ∧
    (s.openf = true → t.openf = false → s.pend.rst = true ∨ s.op = .closeWait ∧ t.op = .idle ∧ t.done = true)

/-- R30, R31, R190 (b), (c): a sequence bit changes only at reset, in an accepted OPEN (to 0), and in the one step of a
successful exchange: TXBIT where WRITE ends with Ok, RXBIT where READ ends with Ok. -/
def Obligations.SequenceBitsFlip : Prop :=
  ∀ s t : State, s.Sequenced → step s = .next t → s.pend.rst = false → ¬(s.op = .idle ∧ t.op = .openWait) →
    (t.txbit ≠ s.txbit ↔ s.op = .writeWait ∧ t.op = .idle ∧ t.result = .ok) ∧
    (t.rxbit ≠ s.rxbit ↔ (s.op = .readHeader ∨ s.op = .readBody) ∧ t.op = .idle ∧ t.result = .ok)

/-- R24, R254: ROLE, NUM_TRIES and TIME_OUT change only at reset and in an accepted OPEN, which loads all three from the CFG
registers. R9, R16: no step changes the build parameters (data of the state: log 2). -/
def Obligations.ConfigurationLatched : Prop :=
  ∀ s t : State, step s = .next t → t.build = s.build ∧
    (s.pend.rst = false →
      t.role = s.role ∧ t.numTries = s.numTries ∧ t.timeOut = s.timeOut ∨
        s.op = .idle ∧ t.op = .openWait ∧ t.role = s.cfgRole ∧ t.numTries = s.cfgTries ∧ t.timeOut = s.cfgTimeout)

/-- R177, R184: READ has no bound of its own: no step of it touches RETRY or arms the timer, and it ends only with Ok, with
TransportError, or by reset. -/
def Obligations.ReadUnbounded : Prop :=
  ∀ s t : State, s.Sequenced → (s.op = .readHeader ∨ s.op = .readBody) → step s = .next t → s.pend.rst = false →
    t.retry = s.retry ∧ t.tarmed = false ∧
      (t.op = .readHeader ∨ t.op = .readBody ∨
        t.op = .idle ∧ t.done = true ∧ (t.result = .ok ∨ t.result = .transportError))

/-- R66, R176, R192: while a WRITE goes on FRAMEBUF[0 .. FRAMELEN-1] keeps the frame it was given, whatever the step, and a
step sends nothing but whole copies of it; where no event is ready and the Transport takes a byte, it is the first of the
stream. -/
def Obligations.RetransmissionsIdentical : Prop :=
  ∀ s t : State, s.Sequenced → s.op = .writeWait → step s = .next t → t.op = .writeWait →
    t.framelen = s.framelen ∧ (∀ i, t.framebuf.read i = s.framebuf.read i) ∧
      (s.Quiet ∧ (∃ rest, s.inputs = .txTake :: rest) ∧ t.tx = s.tx.tail ∨
        ∃ n : Nat, t.tx = s.tx ++
          (List.replicate n (s.framebuf.readList .framebuf s.fresh 0 s.framelen)).flatten)

/-- R73, R254, R267 (a), 93 U21: what the host writes for a later command (the configuration registers, TXLEN, TXBUF) has no
effect on the operation in progress: two states that differ in nothing else step alike. -/
def Obligations.HostWritesDoNotReachOperation : Prop :=
  ∀ s u t : State, s.op ≠ .idle → s.SameOperation u → step s = .next t →
    ∃ v, step u = .next v ∧ t.SameOperation v

/-- R272: from acceptance, OPEN, WRITE and CLOSE see at most (NUM_TRIES + 1) * TIME_OUT ticks while they are in progress,
whatever the environment does; and step by step, a tick takes at least one from the ticks the operation may still last, and no
other step adds to them. -/
def Obligations.OperationBound : Prop :=
  (∀ s t : State, s.Sequenced → s.Budgeted → s.InWidth → s.op.timed = true → step s = .next t → t.op = s.op →
    s.ticked + t.ticksLeft ≤ s.ticksLeft) ∧
    ∀ (s : State) (k : Nat), s.Sequenced → s.Budgeted → s.InWidth → s.op.timed = true →
      s.retry = 0 → s.tmr = s.timeOut → s.staysIn s.op k → s.ticksIn k ≤ (s.numTries + 1) * s.timeOut

/-! ## Invariants -/

/-- R26 to R33, R39, R136, R142, R236, R237: the sequencing registers stay in agreement. That TARMED is 1 in every timed
position, also between the tick that brings TMR to 0 and the Timeout's step, is the model's reading (log 18). -/
def Obligations.SequencedKept : Prop := ∀ s t : State, s.Sequenced → step s = .next t → t.Sequenced

/-- R32, R151, R186, R188: the retry budget and the timer stay within their bounds. -/
def Obligations.BudgetedKept : Prop :=
  ∀ s t : State, s.Sequenced → s.Budgeted → step s = .next t → t.Budgeted

/-- R22 to R24, R32, R33, R209: every register keeps a value of its width. -/
def Obligations.InWidthKept : Prop := ∀ s t : State, s.InWidth → step s = .next t → t.InWidth

/-- R36, R37, R41, R64 to R66, R118: the buffers keep their canonical form and their index spaces, the body decoder its
bound, and a delivered payload, with the BCC2 byte behind it, stays readable. That RXCNT is bounded by MAX_PAYLOAD + 1, and
RXOVF set only there, is the model's reading of R118 against R36 (log 17). -/
def Obligations.BufferedKept : Prop :=
  ∀ s t : State, s.Sequenced → s.Buffered → step s = .next t → t.Buffered

/-- R66, R172, R175, R176: while a WRITE is in progress FRAMEBUF holds one encoded frame of the current send bit. -/
def Obligations.HoldsFrameKept : Prop :=
  ∀ s t : State, s.Sequenced → s.HoldsFrame → step s = .next t → t.HoldsFrame

/-- R190 (d), R201, R202, R209: each sequence bit stays the parity of its frame counter. -/
def Obligations.ParityKept : Prop := ∀ s t : State, s.InParity → step s = .next t → t.InParity

/-- R45, R250: the state after reset meets every invariant above, and its build parameters are admissible (R9, D12).
Its build parameters and its empty streams are the model's choice (logs 2, 4). -/
def Obligations.ResetMeetsInvariants : Prop :=
  State.reset.Sequenced ∧ State.reset.Budgeted ∧ State.reset.InWidth ∧ State.reset.Buffered ∧
    State.reset.HoldsFrame ∧ State.reset.InParity ∧ State.reset.build.ok = true
end

