-- ==== Sys2Proof/Laws/Buffers.lean ====
section
/-! SUPPORT. The basic laws of a buffer: what a read after a write gives, and that every operation keeps the canonical form and the index range. -/

namespace Sys2Proof.Machine

theorem Memory.read_write_same (m : Memory) (i : Nat) (b : Byte) : (m.write i b).read i = some b := by
  induction m with
  | nil => simp [Memory.write, Memory.read]
  | cons c m ih =>
    obtain ⟨j, c⟩ := c
    unfold Memory.write
    split
    · simp [Memory.read]
    · split
      · simp [Memory.read]
      · next h1 h2 => simp [Memory.read, h2, ih]

theorem Memory.read_write_other (m : Memory) {i k : Nat} (b : Byte) (h : k ≠ i) :
    (m.write i b).read k = m.read k := by
  induction m with
  | nil => simp [Memory.write, Memory.read, h]
  | cons c m ih =>
    obtain ⟨j, c⟩ := c
    unfold Memory.write
    split
    · simp [Memory.read, h]
    · split
      · next h1 h2 => subst h2; simp [Memory.read, h]
      · simp only [Memory.read, ih]

theorem Memory.read_write (m : Memory) (i k : Nat) (b : Byte) :
    (m.write i b).read k = if k = i then some b else m.read k := by
  split
  · next h => subst h; exact m.read_write_same k b
  · next h => exact m.read_write_other b h

/-- A write never takes a value away. -/
theorem Memory.isSome_read_write {m : Memory} {k : Nat} (i : Nat) (b : Byte) (h : (m.read k).isSome = true) :
    ((m.write i b).read k).isSome = true := by
  rw [Memory.read_write]
  split
  · rfl
  · exact h

/-- The canonical form, as the list's order. -/
theorem Memory.wf_cons_cons (i j : Nat) (b c : Byte) (m : Memory) :
    Memory.wf ((i, b) :: (j, c) :: m) = true ↔ i < j ∧ Memory.wf ((j, c) :: m) = true := by
  simp [Memory.wf]

theorem Memory.wf_tail {c : Host.Cell} {m : Memory} (h : Memory.wf (c :: m) = true) : m.wf = true := by
  cases m with
  | nil => rfl
  | cons d m => exact ((Memory.wf_cons_cons c.1 d.1 c.2 d.2 m).mp h).2

/-- Where a write below a bound keeps the first index above it. -/
theorem Memory.wf_cons_write {j : Nat} {c : Byte} {m : Memory} {i : Nat} (b : Byte) (hj : j < i)
    (h : Memory.wf ((j, c) :: m) = true) (hw : (m.write i b).wf = true) :
    Memory.wf ((j, c) :: m.write i b) = true := by
  cases m with
  | nil => simp [Memory.write, Memory.wf, hj]
  | cons d m =>
    obtain ⟨k, d⟩ := d
    have hk := ((Memory.wf_cons_cons j k c d m).mp h).1
    unfold Memory.write at hw ⊢
    split
    · next h1 => rw [if_pos h1] at hw; exact (Memory.wf_cons_cons _ _ _ _ _).mpr ⟨hj, hw⟩
    · next h1 =>
      rw [if_neg h1] at hw
      split
      · next h2 => rw [if_pos h2] at hw; exact (Memory.wf_cons_cons _ _ _ _ _).mpr ⟨hj, hw⟩
      · next h2 => rw [if_neg h2] at hw; exact (Memory.wf_cons_cons _ _ _ _ _).mpr ⟨hk, hw⟩

/-- A write keeps the canonical form. -/
theorem Memory.wf_write {m : Memory} (i : Nat) (b : Byte) (h : m.wf = true) : (m.write i b).wf = true := by
  induction m with
  | nil => rfl
  | cons c m ih =>
    obtain ⟨j, c⟩ := c
    unfold Memory.write
    split
    · next h1 => exact (Memory.wf_cons_cons _ _ _ _ _).mpr ⟨h1, h⟩
    · next h1 =>
      split
      · next h2 =>
        subst h2
        cases m with
        | nil => rfl
        | cons d m =>
          obtain ⟨k, d⟩ := d
          exact (Memory.wf_cons_cons _ _ _ _ _).mpr ((Memory.wf_cons_cons _ _ _ _ _).mp h)
      · next h2 => exact Memory.wf_cons_write b (by omega) h (ih (Memory.wf_tail h))

theorem Memory.wf_writeList (bs : List Byte) : ∀ {m : Memory} (i : Nat), m.wf = true → (m.writeList i bs).wf = true := by
  induction bs with
  | nil => intro m i h; exact h
  | cons b bs ih => intro m i h; exact ih (i + 1) (Memory.wf_write i b h)

theorem Memory.below_write {n : Nat} {m : Memory} {i : Nat} (b : Byte) (hi : i < n) (h : m.below n = true) :
    (m.write i b).below n = true := by
  induction m with
  | nil => simp [Memory.write, Memory.below, hi]
  | cons c m ih =>
    obtain ⟨j, c⟩ := c
    have hj : j < n := by simp [Memory.below] at h; exact h.1
    have hm : Memory.below n m = true := by simp [Memory.below] at h ⊢; exact h.2
    unfold Memory.write
    split
    · simpa [Memory.below, hi] using h
    · split
      · simp [Memory.below, hi] at hm ⊢; exact hm
      · have := ih hm
        simp [Memory.below, hj] at this ⊢; exact this

theorem Memory.below_writeList {n : Nat} (bs : List Byte) : ∀ {m : Memory} (i : Nat), i + bs.length ≤ n →
    m.below n = true → (m.writeList i bs).below n = true := by
  induction bs with
  | nil => intro m i _ h; exact h
  | cons b bs ih =>
    intro m i hi h
    simp only [List.length_cons] at hi
    exact ih (i + 1) (by omega) (Memory.below_write b (by omega) h)

/-- What a read after consecutive writes gives. -/
theorem Memory.read_writeList (bs : List Byte) : ∀ (m : Memory) (i k : Nat),
    (m.writeList i bs).read k = if i ≤ k ∧ k < i + bs.length then bs[k - i]? else m.read k := by
  induction bs with
  | nil => intro m i k; simp [Memory.writeList]
  | cons b bs ih =>
    intro m i k
    simp only [Memory.writeList, ih, Memory.read_write, List.length_cons]
    by_cases h1 : k = i
    · subst h1; simp
    · by_cases h2 : i + 1 ≤ k ∧ k < i + 1 + bs.length
      · rw [if_pos h2, if_pos (by omega)]
        obtain ⟨n, rfl⟩ : ∃ n, k = i + 1 + n := ⟨k - (i + 1), by omega⟩
        have e1 : i + 1 + n - (i + 1) = n := by omega
        have e2 : i + 1 + n - i = n + 1 := by omega
        rw [e1, e2, List.getElem?_cons_succ]
      · rw [if_neg h2, if_neg h1, if_neg (by omega)]

theorem Memory.length_readList (name : BufferName) (draw : Nat) (m : Memory) : ∀ i n,
    (m.readList name draw i n).length = n := by
  intro i n
  induction n generalizing i with
  | zero => rfl
  | succ n ih => simp [Memory.readList, ih]

/-- Reading back a list of bytes that the buffer holds. -/
theorem Memory.readList_eq (name : BufferName) (draw : Nat) (m : Memory) (bs : List Byte) : ∀ i,
    (∀ k, k < bs.length → m.read (i + k) = bs[k]?) → m.readList name draw i bs.length = bs := by
  induction bs with
  | nil => intro i _; rfl
  | cons b bs ih =>
    intro i h
    simp only [List.length_cons, Memory.readList]
    have h0 := h 0 (by simp)
    rw [ih (i + 1)]
    · simp at h0; simp [Memory.readAny, h0]
    · intro k hk
      have := h (k + 1) (by simp; omega)
      rw [show i + 1 + k = i + (k + 1) by omega, this]; simp

end Sys2Proof.Machine
end

