-- ==== Sys2Proof/Laws/Codec.lean ====
section
/-! SUPPORT. Laws of the codec's functions: the exclusive or of a sequence (R110), the lengths and contents of the stuffing (R113); the expected codes (R139) and the body decoder's bound (R118). -/

namespace Sys2Proof.Machine

open Sys2Proof.Config

theorem xorFold_append (a b : List Byte) : xorFold (a ++ b) = xorFold a ^^^ xorFold b := by
  induction a with
  | nil => simp [xorFold]
  | cons x a ih => simp [xorFold, ih, BitVec.xor_assoc]

theorem stuffSeq_append (a b : List Byte) : stuffSeq (a ++ b) = stuffSeq a ++ stuffSeq b := by
  induction a with
  | nil => rfl
  | cons x a ih => simp [stuffSeq, ih]

theorem stuffSeq_singleton (b : Byte) : stuffSeq [b] = stuff b := by simp [stuffSeq]

theorem escCount_append (a b : List Byte) : escCount (a ++ b) = escCount a + escCount b := by
  induction a with
  | nil => simp [escCount]
  | cons x a ih => simp [escCount, ih]; omega

theorem length_stuff (b : Byte) : (stuff b).length = 1 + if needsEscape b then 1 else 0 := by
  unfold stuff; split <;> rfl

/-- R113: `len(stuffSeq(s)) = len(s) + escCount(s)`. -/
theorem length_stuffSeq (s : List Byte) : (stuffSeq s).length = s.length + escCount s := by
  induction s with
  | nil => rfl
  | cons b s ih => simp [stuffSeq, escCount, ih, length_stuff]; omega

theorem escCount_le (s : List Byte) : escCount s ≤ s.length := by
  induction s with
  | nil => simp [escCount]
  | cons b s ih => simp [escCount]; split <;> omega

/-- R83: an information frame is `6 + len(P) + e` bytes, at most `2 * len(P) + 7`. -/
theorem length_encInfo (a : Byte) (s : Bool) (p : List Byte) : (encInfo a s p).length = 6 + p.length + encInfoEsc p := by
  simp [encInfo, encInfoEsc, length_stuffSeq, length_stuff, escCount_append, escCount]; omega

theorem length_encInfo_le (a : Byte) (s : Bool) (p : List Byte) : (encInfo a s p).length ≤ 2 * p.length + 7 := by
  have h := escCount_le (p ++ [bcc2 p])
  rw [length_encInfo, encInfoEsc]
  simp at h; omega

/-- R139: every expected code is one of the nine. -/
theorem expected_mem_controlCodes {op : Op} {t r : Bool} {c : Byte} (h : c ∈ expectedControls op t r) :
    c ∈ controlCodes := by
  cases op <;> cases t <;> cases r <;> simp [expectedControls, rrCode, rejCode, infoCode] at h <;>
    rcases h with rfl | rfl <;> decide

/-- In Done nothing moves the FSM (log 16). -/
theorem fsmNext_of_done {va ec : List Byte} {x : Byte} {r : Receiver} (h : r.fsm = .done) : fsmNext va ec x r = r := by
  simp [fsmNext, h]

/-- R118 (e): RXCNT never passes MAX_PAYLOAD + 1. -/
theorem Body.rxcnt_step_le {n : Nat} {b : Body} (x : Byte) (h : b.rxcnt ≤ n + 1) : (b.step n x).rxcnt ≤ n + 1 := by
  unfold Body.step Body.store
  split <;> (try split) <;> (try split) <;> (try split) <;> simp_all

end Sys2Proof.Machine
end

