-- ==== Sys2Proof/Laws/Frames.lean ====
section
/-! SUPPORT. What the two readers of a body do on a stuffed sequence: the frame decoder's destuffBody and the body decoder's runBody; an information frame as its header and its stuffed body; and what the two halves of DEC_INFO do on any bytes. -/

namespace Sys2Proof

open Sys2Proof.Config Sys2Proof.Machine

/-- R85: a byte that needs an escape and FLAG: the byte sent in its place is no FLAG. -/
theorem escaped_ne_flag {d : Byte} (h : needsEscape d = true) : ¬(d ^^^ ESC_XOR = FLAG) := by
  simp [needsEscape] at h
  rcases h with rfl | rfl <;> decide

/-- R114: destuffing undoes the exclusive or with ESC_XOR. -/
theorem xor_escXor_twice (d : Byte) : d ^^^ ESC_XOR ^^^ ESC_XOR = d := by rw [BitVec.xor_assoc]; simp

theorem destuffBody_stuff (d : Byte) (tail : List Byte) :
    destuffBody false (stuff d ++ tail) =
      match destuffBody false tail with
      | .ok (data, rest) => .ok (d :: data, rest)
      | .error e => .error e := by
  unfold stuff
  by_cases h : needsEscape d = true
  · rw [if_pos h, List.cons_append, List.cons_append, List.nil_append, destuffBody, if_neg (by decide), if_pos rfl,
      destuffBody, if_neg (escaped_ne_flag h), xor_escXor_twice, if_pos h]
    all_goals cases destuffBody false tail <;> rfl
  · rw [if_neg h, List.cons_append, List.nil_append]
    simp [needsEscape] at h
    rw [destuffBody, if_neg h.1, if_neg h.2]
    all_goals cases destuffBody false tail <;> rfl

/-- R113, R114: stuffing is reversed exactly. -/
theorem destuffBody_stuffSeq (s rest : List Byte) : destuffBody false (stuffSeq s ++ FLAG :: rest) = .ok (s, rest) := by
  induction s with
  | nil => simp [stuffSeq, destuffBody]
  | cons d s ih => rw [stuffSeq, List.append_assoc, destuffBody_stuff, ih]

theorem splitBody_bcc2 (p : List Byte) : splitBody (p ++ [bcc2 p]) = .ok p := by simp [splitBody]

namespace Machine

theorem runBody_stuff (n : Nat) (d : Byte) (tail : List Byte) (b : Body) (stored : List Byte) (h : b.escp = false)
    (hn : b.rxcnt ≤ n) :
    runBody n (stuff d ++ tail) b stored =
      runBody n tail { b with bccacc := b.bccacc ^^^ d, rxcnt := b.rxcnt + 1 } (stored ++ [d]) := by
  unfold stuff
  by_cases hd : needsEscape d = true
  · have h4 : ¬(ESC = FLAG) := by decide
    rw [if_pos hd]
    simp [runBody, h4, Body.dataByte, h, Body.step, escaped_ne_flag hd, destuff, Body.storesAt,
      Body.store, hn]
  · rw [if_neg hd]
    simp [needsEscape] at hd
    simp [runBody, hd, Body.dataByte, h, Body.step, Body.storesAt, Body.store, hn]

/-- R118: the body decoder over a stuffed sequence that fits in RXBUF, up to its closing FLAG. -/
theorem runBody_stuffSeq (n : Nat) (s : List Byte) : ∀ (tail : List Byte) (b : Body) (stored : List Byte),
    b.escp = false → b.rxcnt + s.length ≤ n + 1 →
    runBody n (stuffSeq s ++ FLAG :: tail) b stored =
      some ({ b with bccacc := b.bccacc ^^^ xorFold s, rxcnt := b.rxcnt + s.length }, stored ++ s) := by
  induction s with
  | nil => intro tail b stored h hn; simp [stuffSeq, runBody, xorFold]
  | cons d s ih =>
    intro tail b stored h hn
    rw [List.length_cons] at hn
    rw [stuffSeq, List.append_assoc, runBody_stuff n d _ b stored h (by omega)]
    rw [ih tail _ (stored ++ [d]) (by exact h) (by show b.rxcnt + 1 + s.length ≤ n + 1; omega)]
    simp [xorFold, BitVec.xor_assoc]
    omega

/-- R82: an information frame is its header and its stuffed body. -/
theorem encInfo_append (a : Byte) (b : Bool) (p tail : List Byte) :
    encInfo a b p ++ tail =
      FLAG :: a :: infoCode b :: (a ^^^ infoCode b) :: (stuffSeq (p ++ [bcc2 p]) ++ FLAG :: tail) := by
  simp [encInfo, bcc1, stuffSeq_append, stuffSeq_singleton]

/-! ## The two halves of DEC_INFO on any bytes (R120) -/

/-- No prefix brings the FSM to Done. -/
theorem findHeader_eq_none (va ec f : List Byte) : ∀ r : Receiver,
    (∀ k, k ≤ f.length → ((f.take k).foldl (fun r y => fsmNext va ec y r) r).fsm ≠ .done) →
    findHeader va ec f r = none := by
  induction f with
  | nil => intro r _; rfl
  | cons x f ih =>
    intro r h
    have h1 := h 1 (by simp)
    simp at h1
    simp only [findHeader]
    rw [if_neg h1]
    exact ih _ fun k hk => by simpa using h (k + 1) (by simp; omega)

/-- head is the first prefix that brings the FSM to Done. -/
theorem findHeader_append (va ec head rest : List Byte) : ∀ r : Receiver, head ≠ [] →
    (head.foldl (fun r y => fsmNext va ec y r) r).fsm = .done →
    (∀ k, k < head.length → ((head.take k).foldl (fun r y => fsmNext va ec y r) r).fsm ≠ .done) →
    findHeader va ec (head ++ rest) r = some (head.foldl (fun r y => fsmNext va ec y r) r, rest) := by
  induction head with
  | nil => intro r h; exact absurd rfl h
  | cons x f ih =>
    intro r _ hd h
    simp only [findHeader, List.cons_append]
    cases f with
    | nil => simp at hd; simp [hd]
    | cons y f =>
      have h1 := h 1 (by simp)
      simp at h1
      rw [if_neg h1]
      exact ih _ (by simp) (by simpa using hd) fun k hk => by simpa using h (k + 1) (by simpa using hk)

/-- No closing FLAG. -/
theorem runBody_eq_none (n : Nat) (f : List Byte) : ∀ b stored, FLAG ∉ f → runBody n f b stored = none := by
  induction f with
  | nil => intro b stored _; rfl
  | cons x f ih =>
    intro b stored h
    simp at h
    simp only [runBody]
    rw [if_neg (fun e => h.1 e.symm)]
    split <;> exact ih _ _ h.2

/-- Up to the closing FLAG, runBody has the registers, and the stored bytes, of the body decoder's steps on a state. -/
theorem runBody_bodyStep (f after : List Byte) : ∀ (s : State) (stored : List Byte), FLAG ∉ f →
    stored.length = s.body.rxcnt → s.body.rxcnt ≤ s.build.maxPayload + 1 →
    (∀ i, i < stored.length → s.rxbuf.read i = stored[i]?) →
    ∃ st, runBody s.build.maxPayload (f ++ FLAG :: after) s.body stored
        = some ((f.foldl (fun u x => u.bodyStep x) s).body, st) ∧
      st.length = (f.foldl (fun u x => u.bodyStep x) s).body.rxcnt ∧
      ∀ i, i < st.length → (f.foldl (fun u x => u.bodyStep x) s).rxbuf.read i = st[i]? := by
  induction f with
  | nil => intro s st _ h1 h2 h3; exact ⟨st, by simp [runBody], h1, h3⟩
  | cons x f ih =>
    intro s st h h1 h2 h3
    simp at h
    have hx : ¬ x = FLAG := fun e => h.1 e.symm
    simp only [runBody, List.cons_append, List.foldl_cons]
    rw [if_neg hx]
    have hb : (s.bodyStep x).build = s.build := rfl
    have hbody : (s.bodyStep x).body = s.body.step s.build.maxPayload x := rfl
    have hle := Body.rxcnt_step_le (n := s.build.maxPayload) (b := s.body) x h2
    split
    · next d hd =>
      have hst : (s.body.step s.build.maxPayload x).rxcnt =
          s.body.rxcnt + if s.body.rxcnt ≤ s.build.maxPayload then 1 else 0 := by
        unfold Body.dataByte at hd
        rw [if_neg hx] at hd
        unfold Body.step Body.store
        rw [if_neg hx]
        split_ifs at hd ⊢ <;> simp_all
      have := ih (s.bodyStep x) (if s.body.storesAt s.build.maxPayload = true then st ++ [d] else st) h.2 ?_ hle ?_
      · simpa [hb, hbody] using this
      · rw [hbody, hst]; simp only [Body.storesAt, decide_eq_true_eq]; split <;> simp_all
      · intro i hi
        simp only [State.bodyStep, hd]
        simp only [Body.storesAt, decide_eq_true_eq] at hi ⊢
        split_ifs at hi ⊢
        · rw [Memory.read_write]
          simp at hi
          split
          · next e => rw [e, ← h1]; simp
          · next e => rw [h3 i (by omega), List.getElem?_append_left (by omega)]
        · exact h3 i hi
    · next hd =>
      have hst : (s.body.step s.build.maxPayload x).rxcnt = s.body.rxcnt := by
        unfold Body.dataByte at hd
        rw [if_neg hx] at hd
        unfold Body.step
        rw [if_neg hx]
        split_ifs at hd ⊢; rfl
      have := ih (s.bodyStep x) st h.2 (by rw [hbody, hst, h1]) hle (by
        intro i hi; simp only [State.bodyStep, hd]; exact h3 i hi)
      simpa [hb, hbody] using this

end Machine

end Sys2Proof
end

