-- ==== Sys2Proof/Laws/State.lean ====
section
/-! SUPPORT. One lemma per field per shared update of State, so that no later proof unfolds a record update. -/

namespace Sys2Proof.Machine

variable (s : State)

/-! ## dropPulses (R228: the outputs of one step) -/

@[simp] theorem State.dropPulses_cfgRole : (s.dropPulses).cfgRole = s.cfgRole := (rfl)
@[simp] theorem State.dropPulses_cfgTries : (s.dropPulses).cfgTries = s.cfgTries := (rfl)
@[simp] theorem State.dropPulses_cfgTimeout : (s.dropPulses).cfgTimeout = s.cfgTimeout := (rfl)
@[simp] theorem State.dropPulses_role : (s.dropPulses).role = s.role := (rfl)
@[simp] theorem State.dropPulses_numTries : (s.dropPulses).numTries = s.numTries := (rfl)
@[simp] theorem State.dropPulses_timeOut : (s.dropPulses).timeOut = s.timeOut := (rfl)
@[simp] theorem State.dropPulses_collect : (s.dropPulses).collect = s.collect := (rfl)
@[simp] theorem State.dropPulses_openf : (s.dropPulses).openf = s.openf := (rfl)
@[simp] theorem State.dropPulses_rcv : (s.dropPulses).rcv = s.rcv := (rfl)
@[simp] theorem State.dropPulses_op : (s.dropPulses).op = s.op := (rfl)
@[simp] theorem State.dropPulses_txbit : (s.dropPulses).txbit = s.txbit := (rfl)
@[simp] theorem State.dropPulses_rxbit : (s.dropPulses).rxbit = s.rxbit := (rfl)
@[simp] theorem State.dropPulses_retry : (s.dropPulses).retry = s.retry := (rfl)
@[simp] theorem State.dropPulses_tmr : (s.dropPulses).tmr = s.tmr := (rfl)
@[simp] theorem State.dropPulses_tarmed : (s.dropPulses).tarmed = s.tarmed := (rfl)
@[simp] theorem State.dropPulses_body : (s.dropPulses).body = s.body := (rfl)
@[simp] theorem State.dropPulses_result : (s.dropPulses).result = s.result := (rfl)
@[simp] theorem State.dropPulses_txlen : (s.dropPulses).txlen = s.txlen := (rfl)
@[simp] theorem State.dropPulses_rxlen : (s.dropPulses).rxlen = s.rxlen := (rfl)
@[simp] theorem State.dropPulses_framelen : (s.dropPulses).framelen = s.framelen := (rfl)
@[simp] theorem State.dropPulses_stat : (s.dropPulses).stat = s.stat := (rfl)
@[simp] theorem State.dropPulses_txbuf : (s.dropPulses).txbuf = s.txbuf := (rfl)
@[simp] theorem State.dropPulses_rxbuf : (s.dropPulses).rxbuf = s.rxbuf := (rfl)
@[simp] theorem State.dropPulses_framebuf : (s.dropPulses).framebuf = s.framebuf := (rfl)
@[simp] theorem State.dropPulses_rx : (s.dropPulses).rx = s.rx := (rfl)
@[simp] theorem State.dropPulses_tx : (s.dropPulses).tx = s.tx := (rfl)
@[simp] theorem State.dropPulses_done : (s.dropPulses).done = false := (rfl)
@[simp] theorem State.dropPulses_statsValid : (s.dropPulses).statsValid = false := (rfl)
@[simp] theorem State.dropPulses_rdata : (s.dropPulses).rdata = s.rdata := (rfl)
@[simp] theorem State.dropPulses_pend : (s.dropPulses).pend = s.pend := (rfl)
@[simp] theorem State.dropPulses_build : (s.dropPulses).build = s.build := (rfl)
@[simp] theorem State.dropPulses_inputs : (s.dropPulses).inputs = s.inputs := (rfl)
@[simp] theorem State.dropPulses_codecOut : (s.dropPulses).codecOut = s.codecOut := (rfl)
@[simp] theorem State.dropPulses_fresh : (s.dropPulses).fresh = s.fresh := (rfl)
@[simp] theorem State.dropPulses_delivered : (s.dropPulses).delivered = s.delivered := (rfl)

/-! ## startRun (R138) -/

@[simp] theorem State.startRun_cfgRole : (s.startRun).cfgRole = s.cfgRole := (rfl)
@[simp] theorem State.startRun_cfgTries : (s.startRun).cfgTries = s.cfgTries := (rfl)
@[simp] theorem State.startRun_cfgTimeout : (s.startRun).cfgTimeout = s.cfgTimeout := (rfl)
@[simp] theorem State.startRun_role : (s.startRun).role = s.role := (rfl)
@[simp] theorem State.startRun_numTries : (s.startRun).numTries = s.numTries := (rfl)
@[simp] theorem State.startRun_timeOut : (s.startRun).timeOut = s.timeOut := (rfl)
@[simp] theorem State.startRun_collect : (s.startRun).collect = s.collect := (rfl)
@[simp] theorem State.startRun_openf : (s.startRun).openf = s.openf := (rfl)
@[simp] theorem State.startRun_rcv : (s.startRun).rcv = { s.rcv with fsm := .awaitFlag } := (rfl)
@[simp] theorem State.startRun_op : (s.startRun).op = s.op := (rfl)
@[simp] theorem State.startRun_txbit : (s.startRun).txbit = s.txbit := (rfl)
@[simp] theorem State.startRun_rxbit : (s.startRun).rxbit = s.rxbit := (rfl)
@[simp] theorem State.startRun_retry : (s.startRun).retry = s.retry := (rfl)
@[simp] theorem State.startRun_tmr : (s.startRun).tmr = s.tmr := (rfl)
@[simp] theorem State.startRun_tarmed : (s.startRun).tarmed = s.tarmed := (rfl)
@[simp] theorem State.startRun_body : (s.startRun).body = s.body := (rfl)
@[simp] theorem State.startRun_result : (s.startRun).result = s.result := (rfl)
@[simp] theorem State.startRun_txlen : (s.startRun).txlen = s.txlen := (rfl)
@[simp] theorem State.startRun_rxlen : (s.startRun).rxlen = s.rxlen := (rfl)
@[simp] theorem State.startRun_framelen : (s.startRun).framelen = s.framelen := (rfl)
@[simp] theorem State.startRun_stat : (s.startRun).stat = s.stat := (rfl)
@[simp] theorem State.startRun_txbuf : (s.startRun).txbuf = s.txbuf := (rfl)
@[simp] theorem State.startRun_rxbuf : (s.startRun).rxbuf = s.rxbuf := (rfl)
@[simp] theorem State.startRun_framebuf : (s.startRun).framebuf = s.framebuf := (rfl)
@[simp] theorem State.startRun_rx : (s.startRun).rx = s.rx := (rfl)
@[simp] theorem State.startRun_tx : (s.startRun).tx = s.tx := (rfl)
@[simp] theorem State.startRun_done : (s.startRun).done = s.done := (rfl)
@[simp] theorem State.startRun_statsValid : (s.startRun).statsValid = s.statsValid := (rfl)
@[simp] theorem State.startRun_rdata : (s.startRun).rdata = s.rdata := (rfl)
@[simp] theorem State.startRun_pend : (s.startRun).pend = s.pend := (rfl)
@[simp] theorem State.startRun_build : (s.startRun).build = s.build := (rfl)
@[simp] theorem State.startRun_inputs : (s.startRun).inputs = s.inputs := (rfl)
@[simp] theorem State.startRun_codecOut : (s.startRun).codecOut = s.codecOut := (rfl)
@[simp] theorem State.startRun_fresh : (s.startRun).fresh = s.fresh := (rfl)
@[simp] theorem State.startRun_delivered : (s.startRun).delivered = s.delivered := (rfl)

/-! ## armTimer (R186) -/

@[simp] theorem State.armTimer_cfgRole : (s.armTimer).cfgRole = s.cfgRole := (rfl)
@[simp] theorem State.armTimer_cfgTries : (s.armTimer).cfgTries = s.cfgTries := (rfl)
@[simp] theorem State.armTimer_cfgTimeout : (s.armTimer).cfgTimeout = s.cfgTimeout := (rfl)
@[simp] theorem State.armTimer_role : (s.armTimer).role = s.role := (rfl)
@[simp] theorem State.armTimer_numTries : (s.armTimer).numTries = s.numTries := (rfl)
@[simp] theorem State.armTimer_timeOut : (s.armTimer).timeOut = s.timeOut := (rfl)
@[simp] theorem State.armTimer_collect : (s.armTimer).collect = s.collect := (rfl)
@[simp] theorem State.armTimer_openf : (s.armTimer).openf = s.openf := (rfl)
@[simp] theorem State.armTimer_rcv : (s.armTimer).rcv = s.rcv := (rfl)
@[simp] theorem State.armTimer_op : (s.armTimer).op = s.op := (rfl)
@[simp] theorem State.armTimer_txbit : (s.armTimer).txbit = s.txbit := (rfl)
@[simp] theorem State.armTimer_rxbit : (s.armTimer).rxbit = s.rxbit := (rfl)
@[simp] theorem State.armTimer_retry : (s.armTimer).retry = s.retry := (rfl)
@[simp] theorem State.armTimer_tmr : (s.armTimer).tmr = s.timeOut := (rfl)
@[simp] theorem State.armTimer_tarmed : (s.armTimer).tarmed = true := (rfl)
@[simp] theorem State.armTimer_body : (s.armTimer).body = s.body := (rfl)
@[simp] theorem State.armTimer_result : (s.armTimer).result = s.result := (rfl)
@[simp] theorem State.armTimer_txlen : (s.armTimer).txlen = s.txlen := (rfl)
@[simp] theorem State.armTimer_rxlen : (s.armTimer).rxlen = s.rxlen := (rfl)
@[simp] theorem State.armTimer_framelen : (s.armTimer).framelen = s.framelen := (rfl)
@[simp] theorem State.armTimer_stat : (s.armTimer).stat = s.stat := (rfl)
@[simp] theorem State.armTimer_txbuf : (s.armTimer).txbuf = s.txbuf := (rfl)
@[simp] theorem State.armTimer_rxbuf : (s.armTimer).rxbuf = s.rxbuf := (rfl)
@[simp] theorem State.armTimer_framebuf : (s.armTimer).framebuf = s.framebuf := (rfl)
@[simp] theorem State.armTimer_rx : (s.armTimer).rx = s.rx := (rfl)
@[simp] theorem State.armTimer_tx : (s.armTimer).tx = s.tx := (rfl)
@[simp] theorem State.armTimer_done : (s.armTimer).done = s.done := (rfl)
@[simp] theorem State.armTimer_statsValid : (s.armTimer).statsValid = s.statsValid := (rfl)
@[simp] theorem State.armTimer_rdata : (s.armTimer).rdata = s.rdata := (rfl)
@[simp] theorem State.armTimer_pend : (s.armTimer).pend = s.pend := (rfl)
@[simp] theorem State.armTimer_build : (s.armTimer).build = s.build := (rfl)
@[simp] theorem State.armTimer_inputs : (s.armTimer).inputs = s.inputs := (rfl)
@[simp] theorem State.armTimer_codecOut : (s.armTimer).codecOut = s.codecOut := (rfl)
@[simp] theorem State.armTimer_fresh : (s.armTimer).fresh = s.fresh := (rfl)
@[simp] theorem State.armTimer_delivered : (s.armTimer).delivered = s.delivered := (rfl)

/-! ## disarmTimer (R187) -/

@[simp] theorem State.disarmTimer_cfgRole : (s.disarmTimer).cfgRole = s.cfgRole := (rfl)
@[simp] theorem State.disarmTimer_cfgTries : (s.disarmTimer).cfgTries = s.cfgTries := (rfl)
@[simp] theorem State.disarmTimer_cfgTimeout : (s.disarmTimer).cfgTimeout = s.cfgTimeout := (rfl)
@[simp] theorem State.disarmTimer_role : (s.disarmTimer).role = s.role := (rfl)
@[simp] theorem State.disarmTimer_numTries : (s.disarmTimer).numTries = s.numTries := (rfl)
@[simp] theorem State.disarmTimer_timeOut : (s.disarmTimer).timeOut = s.timeOut := (rfl)
@[simp] theorem State.disarmTimer_collect : (s.disarmTimer).collect = s.collect := (rfl)
@[simp] theorem State.disarmTimer_openf : (s.disarmTimer).openf = s.openf := (rfl)
@[simp] theorem State.disarmTimer_rcv : (s.disarmTimer).rcv = s.rcv := (rfl)
@[simp] theorem State.disarmTimer_op : (s.disarmTimer).op = s.op := (rfl)
@[simp] theorem State.disarmTimer_txbit : (s.disarmTimer).txbit = s.txbit := (rfl)
@[simp] theorem State.disarmTimer_rxbit : (s.disarmTimer).rxbit = s.rxbit := (rfl)
@[simp] theorem State.disarmTimer_retry : (s.disarmTimer).retry = s.retry := (rfl)
@[simp] theorem State.disarmTimer_tmr : (s.disarmTimer).tmr = s.tmr := (rfl)
@[simp] theorem State.disarmTimer_tarmed : (s.disarmTimer).tarmed = false := (rfl)
@[simp] theorem State.disarmTimer_body : (s.disarmTimer).body = s.body := (rfl)
@[simp] theorem State.disarmTimer_result : (s.disarmTimer).result = s.result := (rfl)
@[simp] theorem State.disarmTimer_txlen : (s.disarmTimer).txlen = s.txlen := (rfl)
@[simp] theorem State.disarmTimer_rxlen : (s.disarmTimer).rxlen = s.rxlen := (rfl)
@[simp] theorem State.disarmTimer_framelen : (s.disarmTimer).framelen = s.framelen := (rfl)
@[simp] theorem State.disarmTimer_stat : (s.disarmTimer).stat = s.stat := (rfl)
@[simp] theorem State.disarmTimer_txbuf : (s.disarmTimer).txbuf = s.txbuf := (rfl)
@[simp] theorem State.disarmTimer_rxbuf : (s.disarmTimer).rxbuf = s.rxbuf := (rfl)
@[simp] theorem State.disarmTimer_framebuf : (s.disarmTimer).framebuf = s.framebuf := (rfl)
@[simp] theorem State.disarmTimer_rx : (s.disarmTimer).rx = s.rx := (rfl)
@[simp] theorem State.disarmTimer_tx : (s.disarmTimer).tx = s.tx := (rfl)
@[simp] theorem State.disarmTimer_done : (s.disarmTimer).done = s.done := (rfl)
@[simp] theorem State.disarmTimer_statsValid : (s.disarmTimer).statsValid = s.statsValid := (rfl)
@[simp] theorem State.disarmTimer_rdata : (s.disarmTimer).rdata = s.rdata := (rfl)
@[simp] theorem State.disarmTimer_pend : (s.disarmTimer).pend = s.pend := (rfl)
@[simp] theorem State.disarmTimer_build : (s.disarmTimer).build = s.build := (rfl)
@[simp] theorem State.disarmTimer_inputs : (s.disarmTimer).inputs = s.inputs := (rfl)
@[simp] theorem State.disarmTimer_codecOut : (s.disarmTimer).codecOut = s.codecOut := (rfl)
@[simp] theorem State.disarmTimer_fresh : (s.disarmTimer).fresh = s.fresh := (rfl)
@[simp] theorem State.disarmTimer_delivered : (s.disarmTimer).delivered = s.delivered := (rfl)

/-! ## expire (R185) -/

@[simp] theorem State.expire_cfgRole : (s.expire).cfgRole = s.cfgRole := (rfl)
@[simp] theorem State.expire_cfgTries : (s.expire).cfgTries = s.cfgTries := (rfl)
@[simp] theorem State.expire_cfgTimeout : (s.expire).cfgTimeout = s.cfgTimeout := (rfl)
@[simp] theorem State.expire_role : (s.expire).role = s.role := (rfl)
@[simp] theorem State.expire_numTries : (s.expire).numTries = s.numTries := (rfl)
@[simp] theorem State.expire_timeOut : (s.expire).timeOut = s.timeOut := (rfl)
@[simp] theorem State.expire_collect : (s.expire).collect = s.collect := (rfl)
@[simp] theorem State.expire_openf : (s.expire).openf = s.openf := (rfl)
@[simp] theorem State.expire_rcv : (s.expire).rcv = s.rcv := (rfl)
@[simp] theorem State.expire_op : (s.expire).op = s.op := (rfl)
@[simp] theorem State.expire_txbit : (s.expire).txbit = s.txbit := (rfl)
@[simp] theorem State.expire_rxbit : (s.expire).rxbit = s.rxbit := (rfl)
@[simp] theorem State.expire_retry : (s.expire).retry = s.retry := (rfl)
@[simp] theorem State.expire_tmr : (s.expire).tmr = 0 := (rfl)
@[simp] theorem State.expire_tarmed : (s.expire).tarmed = false := (rfl)
@[simp] theorem State.expire_body : (s.expire).body = s.body := (rfl)
@[simp] theorem State.expire_result : (s.expire).result = s.result := (rfl)
@[simp] theorem State.expire_txlen : (s.expire).txlen = s.txlen := (rfl)
@[simp] theorem State.expire_rxlen : (s.expire).rxlen = s.rxlen := (rfl)
@[simp] theorem State.expire_framelen : (s.expire).framelen = s.framelen := (rfl)
@[simp] theorem State.expire_stat : (s.expire).stat = s.stat := (rfl)
@[simp] theorem State.expire_txbuf : (s.expire).txbuf = s.txbuf := (rfl)
@[simp] theorem State.expire_rxbuf : (s.expire).rxbuf = s.rxbuf := (rfl)
@[simp] theorem State.expire_framebuf : (s.expire).framebuf = s.framebuf := (rfl)
@[simp] theorem State.expire_rx : (s.expire).rx = s.rx := (rfl)
@[simp] theorem State.expire_tx : (s.expire).tx = s.tx := (rfl)
@[simp] theorem State.expire_done : (s.expire).done = s.done := (rfl)
@[simp] theorem State.expire_statsValid : (s.expire).statsValid = s.statsValid := (rfl)
@[simp] theorem State.expire_rdata : (s.expire).rdata = s.rdata := (rfl)
@[simp] theorem State.expire_pend : (s.expire).pend = s.pend := (rfl)
@[simp] theorem State.expire_build : (s.expire).build = s.build := (rfl)
@[simp] theorem State.expire_inputs : (s.expire).inputs = s.inputs := (rfl)
@[simp] theorem State.expire_codecOut : (s.expire).codecOut = s.codecOut := (rfl)
@[simp] theorem State.expire_fresh : (s.expire).fresh = s.fresh := (rfl)
@[simp] theorem State.expire_delivered : (s.expire).delivered = s.delivered := (rfl)

/-! ## tick (R185) -/

@[simp] theorem State.tick_cfgRole : (s.tick).cfgRole = s.cfgRole := by
  cases h : s.tarmed <;> simp [State.tick, h]
@[simp] theorem State.tick_cfgTries : (s.tick).cfgTries = s.cfgTries := by
  cases h : s.tarmed <;> simp [State.tick, h]
@[simp] theorem State.tick_cfgTimeout : (s.tick).cfgTimeout = s.cfgTimeout := by
  cases h : s.tarmed <;> simp [State.tick, h]
@[simp] theorem State.tick_role : (s.tick).role = s.role := by
  cases h : s.tarmed <;> simp [State.tick, h]
@[simp] theorem State.tick_numTries : (s.tick).numTries = s.numTries := by
  cases h : s.tarmed <;> simp [State.tick, h]
@[simp] theorem State.tick_timeOut : (s.tick).timeOut = s.timeOut := by
  cases h : s.tarmed <;> simp [State.tick, h]
@[simp] theorem State.tick_collect : (s.tick).collect = s.collect := by
  cases h : s.tarmed <;> simp [State.tick, h]
@[simp] theorem State.tick_openf : (s.tick).openf = s.openf := by
  cases h : s.tarmed <;> simp [State.tick, h]
@[simp] theorem State.tick_rcv : (s.tick).rcv = s.rcv := by
  cases h : s.tarmed <;> simp [State.tick, h]
@[simp] theorem State.tick_op : (s.tick).op = s.op := by
  cases h : s.tarmed <;> simp [State.tick, h]
@[simp] theorem State.tick_txbit : (s.tick).txbit = s.txbit := by
  cases h : s.tarmed <;> simp [State.tick, h]
@[simp] theorem State.tick_rxbit : (s.tick).rxbit = s.rxbit := by
  cases h : s.tarmed <;> simp [State.tick, h]
@[simp] theorem State.tick_retry : (s.tick).retry = s.retry := by
  cases h : s.tarmed <;> simp [State.tick, h]
@[simp] theorem State.tick_tmr : (s.tick).tmr = if s.tarmed then s.tmr - 1 else s.tmr := by
  cases h : s.tarmed <;> simp [State.tick, h]
@[simp] theorem State.tick_tarmed : (s.tick).tarmed = s.tarmed := by
  cases h : s.tarmed <;> simp [State.tick, h]
@[simp] theorem State.tick_body : (s.tick).body = s.body := by
  cases h : s.tarmed <;> simp [State.tick, h]
@[simp] theorem State.tick_result : (s.tick).result = s.result := by
  cases h : s.tarmed <;> simp [State.tick, h]
@[simp] theorem State.tick_txlen : (s.tick).txlen = s.txlen := by
  cases h : s.tarmed <;> simp [State.tick, h]
@[simp] theorem State.tick_rxlen : (s.tick).rxlen = s.rxlen := by
  cases h : s.tarmed <;> simp [State.tick, h]
@[simp] theorem State.tick_framelen : (s.tick).framelen = s.framelen := by
  cases h : s.tarmed <;> simp [State.tick, h]
@[simp] theorem State.tick_stat : (s.tick).stat = s.stat := by
  cases h : s.tarmed <;> simp [State.tick, h]
@[simp] theorem State.tick_txbuf : (s.tick).txbuf = s.txbuf := by
  cases h : s.tarmed <;> simp [State.tick, h]
@[simp] theorem State.tick_rxbuf : (s.tick).rxbuf = s.rxbuf := by
  cases h : s.tarmed <;> simp [State.tick, h]
@[simp] theorem State.tick_framebuf : (s.tick).framebuf = s.framebuf := by
  cases h : s.tarmed <;> simp [State.tick, h]
@[simp] theorem State.tick_rx : (s.tick).rx = s.rx := by
  cases h : s.tarmed <;> simp [State.tick, h]
@[simp] theorem State.tick_tx : (s.tick).tx = s.tx := by
  cases h : s.tarmed <;> simp [State.tick, h]
@[simp] theorem State.tick_done : (s.tick).done = s.done := by
  cases h : s.tarmed <;> simp [State.tick, h]
@[simp] theorem State.tick_statsValid : (s.tick).statsValid = s.statsValid := by
  cases h : s.tarmed <;> simp [State.tick, h]
@[simp] theorem State.tick_rdata : (s.tick).rdata = s.rdata := by
  cases h : s.tarmed <;> simp [State.tick, h]
@[simp] theorem State.tick_pend : (s.tick).pend = s.pend := by
  cases h : s.tarmed <;> simp [State.tick, h]
@[simp] theorem State.tick_build : (s.tick).build = s.build := by
  cases h : s.tarmed <;> simp [State.tick, h]
@[simp] theorem State.tick_inputs : (s.tick).inputs = s.inputs := by
  cases h : s.tarmed <;> simp [State.tick, h]
@[simp] theorem State.tick_codecOut : (s.tick).codecOut = s.codecOut := by
  cases h : s.tarmed <;> simp [State.tick, h]
@[simp] theorem State.tick_fresh : (s.tick).fresh = s.fresh := by
  cases h : s.tarmed <;> simp [State.tick, h]
@[simp] theorem State.tick_delivered : (s.tick).delivered = s.delivered := by
  cases h : s.tarmed <;> simp [State.tick, h]

/-! ## bumpRetry (R188) -/

@[simp] theorem State.bumpRetry_cfgRole : (s.bumpRetry).cfgRole = s.cfgRole := (rfl)
@[simp] theorem State.bumpRetry_cfgTries : (s.bumpRetry).cfgTries = s.cfgTries := (rfl)
@[simp] theorem State.bumpRetry_cfgTimeout : (s.bumpRetry).cfgTimeout = s.cfgTimeout := (rfl)
@[simp] theorem State.bumpRetry_role : (s.bumpRetry).role = s.role := (rfl)
@[simp] theorem State.bumpRetry_numTries : (s.bumpRetry).numTries = s.numTries := (rfl)
@[simp] theorem State.bumpRetry_timeOut : (s.bumpRetry).timeOut = s.timeOut := (rfl)
@[simp] theorem State.bumpRetry_collect : (s.bumpRetry).collect = s.collect := (rfl)
@[simp] theorem State.bumpRetry_openf : (s.bumpRetry).openf = s.openf := (rfl)
@[simp] theorem State.bumpRetry_rcv : (s.bumpRetry).rcv = s.rcv := (rfl)
@[simp] theorem State.bumpRetry_op : (s.bumpRetry).op = s.op := (rfl)
@[simp] theorem State.bumpRetry_txbit : (s.bumpRetry).txbit = s.txbit := (rfl)
@[simp] theorem State.bumpRetry_rxbit : (s.bumpRetry).rxbit = s.rxbit := (rfl)
@[simp] theorem State.bumpRetry_retry : (s.bumpRetry).retry = (s.retry + 1) % 2 ^ (s.build.triesW + 1) := (rfl)
@[simp] theorem State.bumpRetry_tmr : (s.bumpRetry).tmr = s.tmr := (rfl)
@[simp] theorem State.bumpRetry_tarmed : (s.bumpRetry).tarmed = s.tarmed := (rfl)
@[simp] theorem State.bumpRetry_body : (s.bumpRetry).body = s.body := (rfl)
@[simp] theorem State.bumpRetry_result : (s.bumpRetry).result = s.result := (rfl)
@[simp] theorem State.bumpRetry_txlen : (s.bumpRetry).txlen = s.txlen := (rfl)
@[simp] theorem State.bumpRetry_rxlen : (s.bumpRetry).rxlen = s.rxlen := (rfl)
@[simp] theorem State.bumpRetry_framelen : (s.bumpRetry).framelen = s.framelen := (rfl)
@[simp] theorem State.bumpRetry_stat : (s.bumpRetry).stat = s.stat := (rfl)
@[simp] theorem State.bumpRetry_txbuf : (s.bumpRetry).txbuf = s.txbuf := (rfl)
@[simp] theorem State.bumpRetry_rxbuf : (s.bumpRetry).rxbuf = s.rxbuf := (rfl)
@[simp] theorem State.bumpRetry_framebuf : (s.bumpRetry).framebuf = s.framebuf := (rfl)
@[simp] theorem State.bumpRetry_rx : (s.bumpRetry).rx = s.rx := (rfl)
@[simp] theorem State.bumpRetry_tx : (s.bumpRetry).tx = s.tx := (rfl)
@[simp] theorem State.bumpRetry_done : (s.bumpRetry).done = s.done := (rfl)
@[simp] theorem State.bumpRetry_statsValid : (s.bumpRetry).statsValid = s.statsValid := (rfl)
@[simp] theorem State.bumpRetry_rdata : (s.bumpRetry).rdata = s.rdata := (rfl)
@[simp] theorem State.bumpRetry_pend : (s.bumpRetry).pend = s.pend := (rfl)
@[simp] theorem State.bumpRetry_build : (s.bumpRetry).build = s.build := (rfl)
@[simp] theorem State.bumpRetry_inputs : (s.bumpRetry).inputs = s.inputs := (rfl)
@[simp] theorem State.bumpRetry_codecOut : (s.bumpRetry).codecOut = s.codecOut := (rfl)
@[simp] theorem State.bumpRetry_fresh : (s.bumpRetry).fresh = s.fresh := (rfl)
@[simp] theorem State.bumpRetry_delivered : (s.bumpRetry).delivered = s.delivered := (rfl)

/-! ## finish (R224) -/

@[simp] theorem State.finish_cfgRole (r : Result) : (s.finish r).cfgRole = s.cfgRole := (rfl)
@[simp] theorem State.finish_cfgTries (r : Result) : (s.finish r).cfgTries = s.cfgTries := (rfl)
@[simp] theorem State.finish_cfgTimeout (r : Result) : (s.finish r).cfgTimeout = s.cfgTimeout := (rfl)
@[simp] theorem State.finish_role (r : Result) : (s.finish r).role = s.role := (rfl)
@[simp] theorem State.finish_numTries (r : Result) : (s.finish r).numTries = s.numTries := (rfl)
@[simp] theorem State.finish_timeOut (r : Result) : (s.finish r).timeOut = s.timeOut := (rfl)
@[simp] theorem State.finish_collect (r : Result) : (s.finish r).collect = s.collect := (rfl)
@[simp] theorem State.finish_openf (r : Result) : (s.finish r).openf = s.openf := (rfl)
@[simp] theorem State.finish_rcv (r : Result) : (s.finish r).rcv = s.rcv := (rfl)
@[simp] theorem State.finish_op (r : Result) : (s.finish r).op = .idle := (rfl)
@[simp] theorem State.finish_txbit (r : Result) : (s.finish r).txbit = s.txbit := (rfl)
@[simp] theorem State.finish_rxbit (r : Result) : (s.finish r).rxbit = s.rxbit := (rfl)
@[simp] theorem State.finish_retry (r : Result) : (s.finish r).retry = s.retry := (rfl)
@[simp] theorem State.finish_tmr (r : Result) : (s.finish r).tmr = s.tmr := (rfl)
@[simp] theorem State.finish_tarmed (r : Result) : (s.finish r).tarmed = false := (rfl)
@[simp] theorem State.finish_body (r : Result) : (s.finish r).body = s.body := (rfl)
@[simp] theorem State.finish_result (r : Result) : (s.finish r).result = r := (rfl)
@[simp] theorem State.finish_txlen (r : Result) : (s.finish r).txlen = s.txlen := (rfl)
@[simp] theorem State.finish_rxlen (r : Result) : (s.finish r).rxlen = s.rxlen := (rfl)
@[simp] theorem State.finish_framelen (r : Result) : (s.finish r).framelen = s.framelen := (rfl)
@[simp] theorem State.finish_stat (r : Result) : (s.finish r).stat = s.stat := (rfl)
@[simp] theorem State.finish_txbuf (r : Result) : (s.finish r).txbuf = s.txbuf := (rfl)
@[simp] theorem State.finish_rxbuf (r : Result) : (s.finish r).rxbuf = s.rxbuf := (rfl)
@[simp] theorem State.finish_framebuf (r : Result) : (s.finish r).framebuf = s.framebuf := (rfl)
@[simp] theorem State.finish_rx (r : Result) : (s.finish r).rx = s.rx := (rfl)
@[simp] theorem State.finish_tx (r : Result) : (s.finish r).tx = s.tx := (rfl)
@[simp] theorem State.finish_done (r : Result) : (s.finish r).done = true := (rfl)
@[simp] theorem State.finish_statsValid (r : Result) : (s.finish r).statsValid = s.statsValid := (rfl)
@[simp] theorem State.finish_rdata (r : Result) : (s.finish r).rdata = s.rdata := (rfl)
@[simp] theorem State.finish_pend (r : Result) : (s.finish r).pend = s.pend := (rfl)
@[simp] theorem State.finish_build (r : Result) : (s.finish r).build = s.build := (rfl)
@[simp] theorem State.finish_inputs (r : Result) : (s.finish r).inputs = s.inputs := (rfl)
@[simp] theorem State.finish_codecOut (r : Result) : (s.finish r).codecOut = s.codecOut := (rfl)
@[simp] theorem State.finish_fresh (r : Result) : (s.finish r).fresh = s.fresh := (rfl)
@[simp] theorem State.finish_delivered (r : Result) : (s.finish r).delivered = s.delivered := (rfl)

/-! ## reportStats (R210) -/

@[simp] theorem State.reportStats_cfgRole : (s.reportStats).cfgRole = s.cfgRole := by
  cases h : s.collect <;> simp [State.reportStats, h]
@[simp] theorem State.reportStats_cfgTries : (s.reportStats).cfgTries = s.cfgTries := by
  cases h : s.collect <;> simp [State.reportStats, h]
@[simp] theorem State.reportStats_cfgTimeout : (s.reportStats).cfgTimeout = s.cfgTimeout := by
  cases h : s.collect <;> simp [State.reportStats, h]
@[simp] theorem State.reportStats_role : (s.reportStats).role = s.role := by
  cases h : s.collect <;> simp [State.reportStats, h]
@[simp] theorem State.reportStats_numTries : (s.reportStats).numTries = s.numTries := by
  cases h : s.collect <;> simp [State.reportStats, h]
@[simp] theorem State.reportStats_timeOut : (s.reportStats).timeOut = s.timeOut := by
  cases h : s.collect <;> simp [State.reportStats, h]
@[simp] theorem State.reportStats_collect : (s.reportStats).collect = s.collect := by
  cases h : s.collect <;> simp [State.reportStats, h]
@[simp] theorem State.reportStats_openf : (s.reportStats).openf = s.openf := by
  cases h : s.collect <;> simp [State.reportStats, h]
@[simp] theorem State.reportStats_rcv : (s.reportStats).rcv = s.rcv := by
  cases h : s.collect <;> simp [State.reportStats, h]
@[simp] theorem State.reportStats_op : (s.reportStats).op = s.op := by
  cases h : s.collect <;> simp [State.reportStats, h]
@[simp] theorem State.reportStats_txbit : (s.reportStats).txbit = s.txbit := by
  cases h : s.collect <;> simp [State.reportStats, h]
@[simp] theorem State.reportStats_rxbit : (s.reportStats).rxbit = s.rxbit := by
  cases h : s.collect <;> simp [State.reportStats, h]
@[simp] theorem State.reportStats_retry : (s.reportStats).retry = s.retry := by
  cases h : s.collect <;> simp [State.reportStats, h]
@[simp] theorem State.reportStats_tmr : (s.reportStats).tmr = s.tmr := by
  cases h : s.collect <;> simp [State.reportStats, h]
@[simp] theorem State.reportStats_tarmed : (s.reportStats).tarmed = s.tarmed := by
  cases h : s.collect <;> simp [State.reportStats, h]
@[simp] theorem State.reportStats_body : (s.reportStats).body = s.body := by
  cases h : s.collect <;> simp [State.reportStats, h]
@[simp] theorem State.reportStats_result : (s.reportStats).result = s.result := by
  cases h : s.collect <;> simp [State.reportStats, h]
@[simp] theorem State.reportStats_txlen : (s.reportStats).txlen = s.txlen := by
  cases h : s.collect <;> simp [State.reportStats, h]
@[simp] theorem State.reportStats_rxlen : (s.reportStats).rxlen = s.rxlen := by
  cases h : s.collect <;> simp [State.reportStats, h]
@[simp] theorem State.reportStats_framelen : (s.reportStats).framelen = s.framelen := by
  cases h : s.collect <;> simp [State.reportStats, h]
@[simp] theorem State.reportStats_stat : (s.reportStats).stat = s.stat := by
  cases h : s.collect <;> simp [State.reportStats, h]
@[simp] theorem State.reportStats_txbuf : (s.reportStats).txbuf = s.txbuf := by
  cases h : s.collect <;> simp [State.reportStats, h]
@[simp] theorem State.reportStats_rxbuf : (s.reportStats).rxbuf = s.rxbuf := by
  cases h : s.collect <;> simp [State.reportStats, h]
@[simp] theorem State.reportStats_framebuf : (s.reportStats).framebuf = s.framebuf := by
  cases h : s.collect <;> simp [State.reportStats, h]
@[simp] theorem State.reportStats_rx : (s.reportStats).rx = s.rx := by
  cases h : s.collect <;> simp [State.reportStats, h]
@[simp] theorem State.reportStats_tx : (s.reportStats).tx = s.tx := by
  cases h : s.collect <;> simp [State.reportStats, h]
@[simp] theorem State.reportStats_done : (s.reportStats).done = s.done := by
  cases h : s.collect <;> simp [State.reportStats, h]
@[simp] theorem State.reportStats_statsValid : (s.reportStats).statsValid = (s.collect || s.statsValid) := by
  cases h : s.collect <;> simp [State.reportStats, h]
@[simp] theorem State.reportStats_rdata : (s.reportStats).rdata = s.rdata := by
  cases h : s.collect <;> simp [State.reportStats, h]
@[simp] theorem State.reportStats_pend : (s.reportStats).pend = s.pend := by
  cases h : s.collect <;> simp [State.reportStats, h]
@[simp] theorem State.reportStats_build : (s.reportStats).build = s.build := by
  cases h : s.collect <;> simp [State.reportStats, h]
@[simp] theorem State.reportStats_inputs : (s.reportStats).inputs = s.inputs := by
  cases h : s.collect <;> simp [State.reportStats, h]
@[simp] theorem State.reportStats_codecOut : (s.reportStats).codecOut = s.codecOut := by
  cases h : s.collect <;> simp [State.reportStats, h]
@[simp] theorem State.reportStats_fresh : (s.reportStats).fresh = s.fresh := by
  cases h : s.collect <;> simp [State.reportStats, h]
@[simp] theorem State.reportStats_delivered : (s.reportStats).delivered = s.delivered := by
  cases h : s.collect <;> simp [State.reportStats, h]

/-! ## txFrame (R62) -/

@[simp] theorem State.txFrame_cfgRole (bs : List Byte) : (s.txFrame bs).cfgRole = s.cfgRole := (rfl)
@[simp] theorem State.txFrame_cfgTries (bs : List Byte) : (s.txFrame bs).cfgTries = s.cfgTries := (rfl)
@[simp] theorem State.txFrame_cfgTimeout (bs : List Byte) : (s.txFrame bs).cfgTimeout = s.cfgTimeout := (rfl)
@[simp] theorem State.txFrame_role (bs : List Byte) : (s.txFrame bs).role = s.role := (rfl)
@[simp] theorem State.txFrame_numTries (bs : List Byte) : (s.txFrame bs).numTries = s.numTries := (rfl)
@[simp] theorem State.txFrame_timeOut (bs : List Byte) : (s.txFrame bs).timeOut = s.timeOut := (rfl)
@[simp] theorem State.txFrame_collect (bs : List Byte) : (s.txFrame bs).collect = s.collect := (rfl)
@[simp] theorem State.txFrame_openf (bs : List Byte) : (s.txFrame bs).openf = s.openf := (rfl)
@[simp] theorem State.txFrame_rcv (bs : List Byte) : (s.txFrame bs).rcv = s.rcv := (rfl)
@[simp] theorem State.txFrame_op (bs : List Byte) : (s.txFrame bs).op = s.op := (rfl)
@[simp] theorem State.txFrame_txbit (bs : List Byte) : (s.txFrame bs).txbit = s.txbit := (rfl)
@[simp] theorem State.txFrame_rxbit (bs : List Byte) : (s.txFrame bs).rxbit = s.rxbit := (rfl)
@[simp] theorem State.txFrame_retry (bs : List Byte) : (s.txFrame bs).retry = s.retry := (rfl)
@[simp] theorem State.txFrame_tmr (bs : List Byte) : (s.txFrame bs).tmr = s.tmr := (rfl)
@[simp] theorem State.txFrame_tarmed (bs : List Byte) : (s.txFrame bs).tarmed = s.tarmed := (rfl)
@[simp] theorem State.txFrame_body (bs : List Byte) : (s.txFrame bs).body = s.body := (rfl)
@[simp] theorem State.txFrame_result (bs : List Byte) : (s.txFrame bs).result = s.result := (rfl)
@[simp] theorem State.txFrame_txlen (bs : List Byte) : (s.txFrame bs).txlen = s.txlen := (rfl)
@[simp] theorem State.txFrame_rxlen (bs : List Byte) : (s.txFrame bs).rxlen = s.rxlen := (rfl)
@[simp] theorem State.txFrame_framelen (bs : List Byte) : (s.txFrame bs).framelen = s.framelen := (rfl)
@[simp] theorem State.txFrame_stat (bs : List Byte) : (s.txFrame bs).stat = { s.stat with bytesSent := s.bumped s.stat.bytesSent bs.length } := (rfl)
@[simp] theorem State.txFrame_txbuf (bs : List Byte) : (s.txFrame bs).txbuf = s.txbuf := (rfl)
@[simp] theorem State.txFrame_rxbuf (bs : List Byte) : (s.txFrame bs).rxbuf = s.rxbuf := (rfl)
@[simp] theorem State.txFrame_framebuf (bs : List Byte) : (s.txFrame bs).framebuf = s.framebuf := (rfl)
@[simp] theorem State.txFrame_rx (bs : List Byte) : (s.txFrame bs).rx = s.rx := (rfl)
@[simp] theorem State.txFrame_tx (bs : List Byte) : (s.txFrame bs).tx = s.tx ++ bs := (rfl)
@[simp] theorem State.txFrame_done (bs : List Byte) : (s.txFrame bs).done = s.done := (rfl)
@[simp] theorem State.txFrame_statsValid (bs : List Byte) : (s.txFrame bs).statsValid = s.statsValid := (rfl)
@[simp] theorem State.txFrame_rdata (bs : List Byte) : (s.txFrame bs).rdata = s.rdata := (rfl)
@[simp] theorem State.txFrame_pend (bs : List Byte) : (s.txFrame bs).pend = s.pend := (rfl)
@[simp] theorem State.txFrame_build (bs : List Byte) : (s.txFrame bs).build = s.build := (rfl)
@[simp] theorem State.txFrame_inputs (bs : List Byte) : (s.txFrame bs).inputs = s.inputs := (rfl)
@[simp] theorem State.txFrame_codecOut (bs : List Byte) : (s.txFrame bs).codecOut = s.codecOut := (rfl)
@[simp] theorem State.txFrame_fresh (bs : List Byte) : (s.txFrame bs).fresh = s.fresh := (rfl)
@[simp] theorem State.txFrame_delivered (bs : List Byte) : (s.txFrame bs).delivered = s.delivered := (rfl)

/-! ## countReceived (R208) -/

@[simp] theorem State.countReceived_cfgRole : (s.countReceived).cfgRole = s.cfgRole := (rfl)
@[simp] theorem State.countReceived_cfgTries : (s.countReceived).cfgTries = s.cfgTries := (rfl)
@[simp] theorem State.countReceived_cfgTimeout : (s.countReceived).cfgTimeout = s.cfgTimeout := (rfl)
@[simp] theorem State.countReceived_role : (s.countReceived).role = s.role := (rfl)
@[simp] theorem State.countReceived_numTries : (s.countReceived).numTries = s.numTries := (rfl)
@[simp] theorem State.countReceived_timeOut : (s.countReceived).timeOut = s.timeOut := (rfl)
@[simp] theorem State.countReceived_collect : (s.countReceived).collect = s.collect := (rfl)
@[simp] theorem State.countReceived_openf : (s.countReceived).openf = s.openf := (rfl)
@[simp] theorem State.countReceived_rcv : (s.countReceived).rcv = s.rcv := (rfl)
@[simp] theorem State.countReceived_op : (s.countReceived).op = s.op := (rfl)
@[simp] theorem State.countReceived_txbit : (s.countReceived).txbit = s.txbit := (rfl)
@[simp] theorem State.countReceived_rxbit : (s.countReceived).rxbit = s.rxbit := (rfl)
@[simp] theorem State.countReceived_retry : (s.countReceived).retry = s.retry := (rfl)
@[simp] theorem State.countReceived_tmr : (s.countReceived).tmr = s.tmr := (rfl)
@[simp] theorem State.countReceived_tarmed : (s.countReceived).tarmed = s.tarmed := (rfl)
@[simp] theorem State.countReceived_body : (s.countReceived).body = s.body := (rfl)
@[simp] theorem State.countReceived_result : (s.countReceived).result = s.result := (rfl)
@[simp] theorem State.countReceived_txlen : (s.countReceived).txlen = s.txlen := (rfl)
@[simp] theorem State.countReceived_rxlen : (s.countReceived).rxlen = s.rxlen := (rfl)
@[simp] theorem State.countReceived_framelen : (s.countReceived).framelen = s.framelen := (rfl)
@[simp] theorem State.countReceived_stat : (s.countReceived).stat = { s.stat with bytesRecv := s.bumped s.stat.bytesRecv 1 } := (rfl)
@[simp] theorem State.countReceived_txbuf : (s.countReceived).txbuf = s.txbuf := (rfl)
@[simp] theorem State.countReceived_rxbuf : (s.countReceived).rxbuf = s.rxbuf := (rfl)
@[simp] theorem State.countReceived_framebuf : (s.countReceived).framebuf = s.framebuf := (rfl)
@[simp] theorem State.countReceived_rx : (s.countReceived).rx = s.rx := (rfl)
@[simp] theorem State.countReceived_tx : (s.countReceived).tx = s.tx := (rfl)
@[simp] theorem State.countReceived_done : (s.countReceived).done = s.done := (rfl)
@[simp] theorem State.countReceived_statsValid : (s.countReceived).statsValid = s.statsValid := (rfl)
@[simp] theorem State.countReceived_rdata : (s.countReceived).rdata = s.rdata := (rfl)
@[simp] theorem State.countReceived_pend : (s.countReceived).pend = s.pend := (rfl)
@[simp] theorem State.countReceived_build : (s.countReceived).build = s.build := (rfl)
@[simp] theorem State.countReceived_inputs : (s.countReceived).inputs = s.inputs := (rfl)
@[simp] theorem State.countReceived_codecOut : (s.countReceived).codecOut = s.codecOut := (rfl)
@[simp] theorem State.countReceived_fresh : (s.countReceived).fresh = s.fresh := (rfl)
@[simp] theorem State.countReceived_delivered : (s.countReceived).delivered = s.delivered := (rfl)

/-! ## countTimeout (R205) -/

@[simp] theorem State.countTimeout_cfgRole : (s.countTimeout).cfgRole = s.cfgRole := (rfl)
@[simp] theorem State.countTimeout_cfgTries : (s.countTimeout).cfgTries = s.cfgTries := (rfl)
@[simp] theorem State.countTimeout_cfgTimeout : (s.countTimeout).cfgTimeout = s.cfgTimeout := (rfl)
@[simp] theorem State.countTimeout_role : (s.countTimeout).role = s.role := (rfl)
@[simp] theorem State.countTimeout_numTries : (s.countTimeout).numTries = s.numTries := (rfl)
@[simp] theorem State.countTimeout_timeOut : (s.countTimeout).timeOut = s.timeOut := (rfl)
@[simp] theorem State.countTimeout_collect : (s.countTimeout).collect = s.collect := (rfl)
@[simp] theorem State.countTimeout_openf : (s.countTimeout).openf = s.openf := (rfl)
@[simp] theorem State.countTimeout_rcv : (s.countTimeout).rcv = s.rcv := (rfl)
@[simp] theorem State.countTimeout_op : (s.countTimeout).op = s.op := (rfl)
@[simp] theorem State.countTimeout_txbit : (s.countTimeout).txbit = s.txbit := (rfl)
@[simp] theorem State.countTimeout_rxbit : (s.countTimeout).rxbit = s.rxbit := (rfl)
@[simp] theorem State.countTimeout_retry : (s.countTimeout).retry = s.retry := (rfl)
@[simp] theorem State.countTimeout_tmr : (s.countTimeout).tmr = s.tmr := (rfl)
@[simp] theorem State.countTimeout_tarmed : (s.countTimeout).tarmed = s.tarmed := (rfl)
@[simp] theorem State.countTimeout_body : (s.countTimeout).body = s.body := (rfl)
@[simp] theorem State.countTimeout_result : (s.countTimeout).result = s.result := (rfl)
@[simp] theorem State.countTimeout_txlen : (s.countTimeout).txlen = s.txlen := (rfl)
@[simp] theorem State.countTimeout_rxlen : (s.countTimeout).rxlen = s.rxlen := (rfl)
@[simp] theorem State.countTimeout_framelen : (s.countTimeout).framelen = s.framelen := (rfl)
@[simp] theorem State.countTimeout_stat : (s.countTimeout).stat = { s.stat with timeouts := s.bumped s.stat.timeouts 1 } := (rfl)
@[simp] theorem State.countTimeout_txbuf : (s.countTimeout).txbuf = s.txbuf := (rfl)
@[simp] theorem State.countTimeout_rxbuf : (s.countTimeout).rxbuf = s.rxbuf := (rfl)
@[simp] theorem State.countTimeout_framebuf : (s.countTimeout).framebuf = s.framebuf := (rfl)
@[simp] theorem State.countTimeout_rx : (s.countTimeout).rx = s.rx := (rfl)
@[simp] theorem State.countTimeout_tx : (s.countTimeout).tx = s.tx := (rfl)
@[simp] theorem State.countTimeout_done : (s.countTimeout).done = s.done := (rfl)
@[simp] theorem State.countTimeout_statsValid : (s.countTimeout).statsValid = s.statsValid := (rfl)
@[simp] theorem State.countTimeout_rdata : (s.countTimeout).rdata = s.rdata := (rfl)
@[simp] theorem State.countTimeout_pend : (s.countTimeout).pend = s.pend := (rfl)
@[simp] theorem State.countTimeout_build : (s.countTimeout).build = s.build := (rfl)
@[simp] theorem State.countTimeout_inputs : (s.countTimeout).inputs = s.inputs := (rfl)
@[simp] theorem State.countTimeout_codecOut : (s.countTimeout).codecOut = s.codecOut := (rfl)
@[simp] theorem State.countTimeout_fresh : (s.countTimeout).fresh = s.fresh := (rfl)
@[simp] theorem State.countTimeout_delivered : (s.countTimeout).delivered = s.delivered := (rfl)

/-! ## countRejReceived (R204) -/

@[simp] theorem State.countRejReceived_cfgRole : (s.countRejReceived).cfgRole = s.cfgRole := (rfl)
@[simp] theorem State.countRejReceived_cfgTries : (s.countRejReceived).cfgTries = s.cfgTries := (rfl)
@[simp] theorem State.countRejReceived_cfgTimeout : (s.countRejReceived).cfgTimeout = s.cfgTimeout := (rfl)
@[simp] theorem State.countRejReceived_role : (s.countRejReceived).role = s.role := (rfl)
@[simp] theorem State.countRejReceived_numTries : (s.countRejReceived).numTries = s.numTries := (rfl)
@[simp] theorem State.countRejReceived_timeOut : (s.countRejReceived).timeOut = s.timeOut := (rfl)
@[simp] theorem State.countRejReceived_collect : (s.countRejReceived).collect = s.collect := (rfl)
@[simp] theorem State.countRejReceived_openf : (s.countRejReceived).openf = s.openf := (rfl)
@[simp] theorem State.countRejReceived_rcv : (s.countRejReceived).rcv = s.rcv := (rfl)
@[simp] theorem State.countRejReceived_op : (s.countRejReceived).op = s.op := (rfl)
@[simp] theorem State.countRejReceived_txbit : (s.countRejReceived).txbit = s.txbit := (rfl)
@[simp] theorem State.countRejReceived_rxbit : (s.countRejReceived).rxbit = s.rxbit := (rfl)
@[simp] theorem State.countRejReceived_retry : (s.countRejReceived).retry = s.retry := (rfl)
@[simp] theorem State.countRejReceived_tmr : (s.countRejReceived).tmr = s.tmr := (rfl)
@[simp] theorem State.countRejReceived_tarmed : (s.countRejReceived).tarmed = s.tarmed := (rfl)
@[simp] theorem State.countRejReceived_body : (s.countRejReceived).body = s.body := (rfl)
@[simp] theorem State.countRejReceived_result : (s.countRejReceived).result = s.result := (rfl)
@[simp] theorem State.countRejReceived_txlen : (s.countRejReceived).txlen = s.txlen := (rfl)
@[simp] theorem State.countRejReceived_rxlen : (s.countRejReceived).rxlen = s.rxlen := (rfl)
@[simp] theorem State.countRejReceived_framelen : (s.countRejReceived).framelen = s.framelen := (rfl)
@[simp] theorem State.countRejReceived_stat : (s.countRejReceived).stat = { s.stat with rejRecv := s.bumped s.stat.rejRecv 1 } := (rfl)
@[simp] theorem State.countRejReceived_txbuf : (s.countRejReceived).txbuf = s.txbuf := (rfl)
@[simp] theorem State.countRejReceived_rxbuf : (s.countRejReceived).rxbuf = s.rxbuf := (rfl)
@[simp] theorem State.countRejReceived_framebuf : (s.countRejReceived).framebuf = s.framebuf := (rfl)
@[simp] theorem State.countRejReceived_rx : (s.countRejReceived).rx = s.rx := (rfl)
@[simp] theorem State.countRejReceived_tx : (s.countRejReceived).tx = s.tx := (rfl)
@[simp] theorem State.countRejReceived_done : (s.countRejReceived).done = s.done := (rfl)
@[simp] theorem State.countRejReceived_statsValid : (s.countRejReceived).statsValid = s.statsValid := (rfl)
@[simp] theorem State.countRejReceived_rdata : (s.countRejReceived).rdata = s.rdata := (rfl)
@[simp] theorem State.countRejReceived_pend : (s.countRejReceived).pend = s.pend := (rfl)
@[simp] theorem State.countRejReceived_build : (s.countRejReceived).build = s.build := (rfl)
@[simp] theorem State.countRejReceived_inputs : (s.countRejReceived).inputs = s.inputs := (rfl)
@[simp] theorem State.countRejReceived_codecOut : (s.countRejReceived).codecOut = s.codecOut := (rfl)
@[simp] theorem State.countRejReceived_fresh : (s.countRejReceived).fresh = s.fresh := (rfl)
@[simp] theorem State.countRejReceived_delivered : (s.countRejReceived).delivered = s.delivered := (rfl)

/-! ## countRejSent (R203) -/

@[simp] theorem State.countRejSent_cfgRole : (s.countRejSent).cfgRole = s.cfgRole := (rfl)
@[simp] theorem State.countRejSent_cfgTries : (s.countRejSent).cfgTries = s.cfgTries := (rfl)
@[simp] theorem State.countRejSent_cfgTimeout : (s.countRejSent).cfgTimeout = s.cfgTimeout := (rfl)
@[simp] theorem State.countRejSent_role : (s.countRejSent).role = s.role := (rfl)
@[simp] theorem State.countRejSent_numTries : (s.countRejSent).numTries = s.numTries := (rfl)
@[simp] theorem State.countRejSent_timeOut : (s.countRejSent).timeOut = s.timeOut := (rfl)
@[simp] theorem State.countRejSent_collect : (s.countRejSent).collect = s.collect := (rfl)
@[simp] theorem State.countRejSent_openf : (s.countRejSent).openf = s.openf := (rfl)
@[simp] theorem State.countRejSent_rcv : (s.countRejSent).rcv = s.rcv := (rfl)
@[simp] theorem State.countRejSent_op : (s.countRejSent).op = s.op := (rfl)
@[simp] theorem State.countRejSent_txbit : (s.countRejSent).txbit = s.txbit := (rfl)
@[simp] theorem State.countRejSent_rxbit : (s.countRejSent).rxbit = s.rxbit := (rfl)
@[simp] theorem State.countRejSent_retry : (s.countRejSent).retry = s.retry := (rfl)
@[simp] theorem State.countRejSent_tmr : (s.countRejSent).tmr = s.tmr := (rfl)
@[simp] theorem State.countRejSent_tarmed : (s.countRejSent).tarmed = s.tarmed := (rfl)
@[simp] theorem State.countRejSent_body : (s.countRejSent).body = s.body := (rfl)
@[simp] theorem State.countRejSent_result : (s.countRejSent).result = s.result := (rfl)
@[simp] theorem State.countRejSent_txlen : (s.countRejSent).txlen = s.txlen := (rfl)
@[simp] theorem State.countRejSent_rxlen : (s.countRejSent).rxlen = s.rxlen := (rfl)
@[simp] theorem State.countRejSent_framelen : (s.countRejSent).framelen = s.framelen := (rfl)
@[simp] theorem State.countRejSent_stat : (s.countRejSent).stat = { s.stat with rejSent := s.bumped s.stat.rejSent 1 } := (rfl)
@[simp] theorem State.countRejSent_txbuf : (s.countRejSent).txbuf = s.txbuf := (rfl)
@[simp] theorem State.countRejSent_rxbuf : (s.countRejSent).rxbuf = s.rxbuf := (rfl)
@[simp] theorem State.countRejSent_framebuf : (s.countRejSent).framebuf = s.framebuf := (rfl)
@[simp] theorem State.countRejSent_rx : (s.countRejSent).rx = s.rx := (rfl)
@[simp] theorem State.countRejSent_tx : (s.countRejSent).tx = s.tx := (rfl)
@[simp] theorem State.countRejSent_done : (s.countRejSent).done = s.done := (rfl)
@[simp] theorem State.countRejSent_statsValid : (s.countRejSent).statsValid = s.statsValid := (rfl)
@[simp] theorem State.countRejSent_rdata : (s.countRejSent).rdata = s.rdata := (rfl)
@[simp] theorem State.countRejSent_pend : (s.countRejSent).pend = s.pend := (rfl)
@[simp] theorem State.countRejSent_build : (s.countRejSent).build = s.build := (rfl)
@[simp] theorem State.countRejSent_inputs : (s.countRejSent).inputs = s.inputs := (rfl)
@[simp] theorem State.countRejSent_codecOut : (s.countRejSent).codecOut = s.codecOut := (rfl)
@[simp] theorem State.countRejSent_fresh : (s.countRejSent).fresh = s.fresh := (rfl)
@[simp] theorem State.countRejSent_delivered : (s.countRejSent).delivered = s.delivered := (rfl)

/-! ## countFrameSent (R201) -/

@[simp] theorem State.countFrameSent_cfgRole : (s.countFrameSent).cfgRole = s.cfgRole := (rfl)
@[simp] theorem State.countFrameSent_cfgTries : (s.countFrameSent).cfgTries = s.cfgTries := (rfl)
@[simp] theorem State.countFrameSent_cfgTimeout : (s.countFrameSent).cfgTimeout = s.cfgTimeout := (rfl)
@[simp] theorem State.countFrameSent_role : (s.countFrameSent).role = s.role := (rfl)
@[simp] theorem State.countFrameSent_numTries : (s.countFrameSent).numTries = s.numTries := (rfl)
@[simp] theorem State.countFrameSent_timeOut : (s.countFrameSent).timeOut = s.timeOut := (rfl)
@[simp] theorem State.countFrameSent_collect : (s.countFrameSent).collect = s.collect := (rfl)
@[simp] theorem State.countFrameSent_openf : (s.countFrameSent).openf = s.openf := (rfl)
@[simp] theorem State.countFrameSent_rcv : (s.countFrameSent).rcv = s.rcv := (rfl)
@[simp] theorem State.countFrameSent_op : (s.countFrameSent).op = s.op := (rfl)
@[simp] theorem State.countFrameSent_txbit : (s.countFrameSent).txbit = s.txbit := (rfl)
@[simp] theorem State.countFrameSent_rxbit : (s.countFrameSent).rxbit = s.rxbit := (rfl)
@[simp] theorem State.countFrameSent_retry : (s.countFrameSent).retry = s.retry := (rfl)
@[simp] theorem State.countFrameSent_tmr : (s.countFrameSent).tmr = s.tmr := (rfl)
@[simp] theorem State.countFrameSent_tarmed : (s.countFrameSent).tarmed = s.tarmed := (rfl)
@[simp] theorem State.countFrameSent_body : (s.countFrameSent).body = s.body := (rfl)
@[simp] theorem State.countFrameSent_result : (s.countFrameSent).result = s.result := (rfl)
@[simp] theorem State.countFrameSent_txlen : (s.countFrameSent).txlen = s.txlen := (rfl)
@[simp] theorem State.countFrameSent_rxlen : (s.countFrameSent).rxlen = s.rxlen := (rfl)
@[simp] theorem State.countFrameSent_framelen : (s.countFrameSent).framelen = s.framelen := (rfl)
@[simp] theorem State.countFrameSent_stat : (s.countFrameSent).stat = { s.stat with framesSent := s.bumped s.stat.framesSent 1 } := (rfl)
@[simp] theorem State.countFrameSent_txbuf : (s.countFrameSent).txbuf = s.txbuf := (rfl)
@[simp] theorem State.countFrameSent_rxbuf : (s.countFrameSent).rxbuf = s.rxbuf := (rfl)
@[simp] theorem State.countFrameSent_framebuf : (s.countFrameSent).framebuf = s.framebuf := (rfl)
@[simp] theorem State.countFrameSent_rx : (s.countFrameSent).rx = s.rx := (rfl)
@[simp] theorem State.countFrameSent_tx : (s.countFrameSent).tx = s.tx := (rfl)
@[simp] theorem State.countFrameSent_done : (s.countFrameSent).done = s.done := (rfl)
@[simp] theorem State.countFrameSent_statsValid : (s.countFrameSent).statsValid = s.statsValid := (rfl)
@[simp] theorem State.countFrameSent_rdata : (s.countFrameSent).rdata = s.rdata := (rfl)
@[simp] theorem State.countFrameSent_pend : (s.countFrameSent).pend = s.pend := (rfl)
@[simp] theorem State.countFrameSent_build : (s.countFrameSent).build = s.build := (rfl)
@[simp] theorem State.countFrameSent_inputs : (s.countFrameSent).inputs = s.inputs := (rfl)
@[simp] theorem State.countFrameSent_codecOut : (s.countFrameSent).codecOut = s.codecOut := (rfl)
@[simp] theorem State.countFrameSent_fresh : (s.countFrameSent).fresh = s.fresh := (rfl)
@[simp] theorem State.countFrameSent_delivered : (s.countFrameSent).delivered = s.delivered := (rfl)

/-! ## countFrameReceived (R202) -/

@[simp] theorem State.countFrameReceived_cfgRole : (s.countFrameReceived).cfgRole = s.cfgRole := (rfl)
@[simp] theorem State.countFrameReceived_cfgTries : (s.countFrameReceived).cfgTries = s.cfgTries := (rfl)
@[simp] theorem State.countFrameReceived_cfgTimeout : (s.countFrameReceived).cfgTimeout = s.cfgTimeout := (rfl)
@[simp] theorem State.countFrameReceived_role : (s.countFrameReceived).role = s.role := (rfl)
@[simp] theorem State.countFrameReceived_numTries : (s.countFrameReceived).numTries = s.numTries := (rfl)
@[simp] theorem State.countFrameReceived_timeOut : (s.countFrameReceived).timeOut = s.timeOut := (rfl)
@[simp] theorem State.countFrameReceived_collect : (s.countFrameReceived).collect = s.collect := (rfl)
@[simp] theorem State.countFrameReceived_openf : (s.countFrameReceived).openf = s.openf := (rfl)
@[simp] theorem State.countFrameReceived_rcv : (s.countFrameReceived).rcv = s.rcv := (rfl)
@[simp] theorem State.countFrameReceived_op : (s.countFrameReceived).op = s.op := (rfl)
@[simp] theorem State.countFrameReceived_txbit : (s.countFrameReceived).txbit = s.txbit := (rfl)
@[simp] theorem State.countFrameReceived_rxbit : (s.countFrameReceived).rxbit = s.rxbit := (rfl)
@[simp] theorem State.countFrameReceived_retry : (s.countFrameReceived).retry = s.retry := (rfl)
@[simp] theorem State.countFrameReceived_tmr : (s.countFrameReceived).tmr = s.tmr := (rfl)
@[simp] theorem State.countFrameReceived_tarmed : (s.countFrameReceived).tarmed = s.tarmed := (rfl)
@[simp] theorem State.countFrameReceived_body : (s.countFrameReceived).body = s.body := (rfl)
@[simp] theorem State.countFrameReceived_result : (s.countFrameReceived).result = s.result := (rfl)
@[simp] theorem State.countFrameReceived_txlen : (s.countFrameReceived).txlen = s.txlen := (rfl)
@[simp] theorem State.countFrameReceived_rxlen : (s.countFrameReceived).rxlen = s.rxlen := (rfl)
@[simp] theorem State.countFrameReceived_framelen : (s.countFrameReceived).framelen = s.framelen := (rfl)
@[simp] theorem State.countFrameReceived_stat : (s.countFrameReceived).stat = { s.stat with framesRecv := s.bumped s.stat.framesRecv 1 } := (rfl)
@[simp] theorem State.countFrameReceived_txbuf : (s.countFrameReceived).txbuf = s.txbuf := (rfl)
@[simp] theorem State.countFrameReceived_rxbuf : (s.countFrameReceived).rxbuf = s.rxbuf := (rfl)
@[simp] theorem State.countFrameReceived_framebuf : (s.countFrameReceived).framebuf = s.framebuf := (rfl)
@[simp] theorem State.countFrameReceived_rx : (s.countFrameReceived).rx = s.rx := (rfl)
@[simp] theorem State.countFrameReceived_tx : (s.countFrameReceived).tx = s.tx := (rfl)
@[simp] theorem State.countFrameReceived_done : (s.countFrameReceived).done = s.done := (rfl)
@[simp] theorem State.countFrameReceived_statsValid : (s.countFrameReceived).statsValid = s.statsValid := (rfl)
@[simp] theorem State.countFrameReceived_rdata : (s.countFrameReceived).rdata = s.rdata := (rfl)
@[simp] theorem State.countFrameReceived_pend : (s.countFrameReceived).pend = s.pend := (rfl)
@[simp] theorem State.countFrameReceived_build : (s.countFrameReceived).build = s.build := (rfl)
@[simp] theorem State.countFrameReceived_inputs : (s.countFrameReceived).inputs = s.inputs := (rfl)
@[simp] theorem State.countFrameReceived_codecOut : (s.countFrameReceived).codecOut = s.codecOut := (rfl)
@[simp] theorem State.countFrameReceived_fresh : (s.countFrameReceived).fresh = s.fresh := (rfl)
@[simp] theorem State.countFrameReceived_delivered : (s.countFrameReceived).delivered = s.delivered := (rfl)

/-! ## countEscaped (R206) -/

@[simp] theorem State.countEscaped_cfgRole (k : Nat) : (s.countEscaped k).cfgRole = s.cfgRole := (rfl)
@[simp] theorem State.countEscaped_cfgTries (k : Nat) : (s.countEscaped k).cfgTries = s.cfgTries := (rfl)
@[simp] theorem State.countEscaped_cfgTimeout (k : Nat) : (s.countEscaped k).cfgTimeout = s.cfgTimeout := (rfl)
@[simp] theorem State.countEscaped_role (k : Nat) : (s.countEscaped k).role = s.role := (rfl)
@[simp] theorem State.countEscaped_numTries (k : Nat) : (s.countEscaped k).numTries = s.numTries := (rfl)
@[simp] theorem State.countEscaped_timeOut (k : Nat) : (s.countEscaped k).timeOut = s.timeOut := (rfl)
@[simp] theorem State.countEscaped_collect (k : Nat) : (s.countEscaped k).collect = s.collect := (rfl)
@[simp] theorem State.countEscaped_openf (k : Nat) : (s.countEscaped k).openf = s.openf := (rfl)
@[simp] theorem State.countEscaped_rcv (k : Nat) : (s.countEscaped k).rcv = s.rcv := (rfl)
@[simp] theorem State.countEscaped_op (k : Nat) : (s.countEscaped k).op = s.op := (rfl)
@[simp] theorem State.countEscaped_txbit (k : Nat) : (s.countEscaped k).txbit = s.txbit := (rfl)
@[simp] theorem State.countEscaped_rxbit (k : Nat) : (s.countEscaped k).rxbit = s.rxbit := (rfl)
@[simp] theorem State.countEscaped_retry (k : Nat) : (s.countEscaped k).retry = s.retry := (rfl)
@[simp] theorem State.countEscaped_tmr (k : Nat) : (s.countEscaped k).tmr = s.tmr := (rfl)
@[simp] theorem State.countEscaped_tarmed (k : Nat) : (s.countEscaped k).tarmed = s.tarmed := (rfl)
@[simp] theorem State.countEscaped_body (k : Nat) : (s.countEscaped k).body = s.body := (rfl)
@[simp] theorem State.countEscaped_result (k : Nat) : (s.countEscaped k).result = s.result := (rfl)
@[simp] theorem State.countEscaped_txlen (k : Nat) : (s.countEscaped k).txlen = s.txlen := (rfl)
@[simp] theorem State.countEscaped_rxlen (k : Nat) : (s.countEscaped k).rxlen = s.rxlen := (rfl)
@[simp] theorem State.countEscaped_framelen (k : Nat) : (s.countEscaped k).framelen = s.framelen := (rfl)
@[simp] theorem State.countEscaped_stat (k : Nat) : (s.countEscaped k).stat = { s.stat with escaped := s.bumped s.stat.escaped k } := (rfl)
@[simp] theorem State.countEscaped_txbuf (k : Nat) : (s.countEscaped k).txbuf = s.txbuf := (rfl)
@[simp] theorem State.countEscaped_rxbuf (k : Nat) : (s.countEscaped k).rxbuf = s.rxbuf := (rfl)
@[simp] theorem State.countEscaped_framebuf (k : Nat) : (s.countEscaped k).framebuf = s.framebuf := (rfl)
@[simp] theorem State.countEscaped_rx (k : Nat) : (s.countEscaped k).rx = s.rx := (rfl)
@[simp] theorem State.countEscaped_tx (k : Nat) : (s.countEscaped k).tx = s.tx := (rfl)
@[simp] theorem State.countEscaped_done (k : Nat) : (s.countEscaped k).done = s.done := (rfl)
@[simp] theorem State.countEscaped_statsValid (k : Nat) : (s.countEscaped k).statsValid = s.statsValid := (rfl)
@[simp] theorem State.countEscaped_rdata (k : Nat) : (s.countEscaped k).rdata = s.rdata := (rfl)
@[simp] theorem State.countEscaped_pend (k : Nat) : (s.countEscaped k).pend = s.pend := (rfl)
@[simp] theorem State.countEscaped_build (k : Nat) : (s.countEscaped k).build = s.build := (rfl)
@[simp] theorem State.countEscaped_inputs (k : Nat) : (s.countEscaped k).inputs = s.inputs := (rfl)
@[simp] theorem State.countEscaped_codecOut (k : Nat) : (s.countEscaped k).codecOut = s.codecOut := (rfl)
@[simp] theorem State.countEscaped_fresh (k : Nat) : (s.countEscaped k).fresh = s.fresh := (rfl)
@[simp] theorem State.countEscaped_delivered (k : Nat) : (s.countEscaped k).delivered = s.delivered := (rfl)

/-! ## fsmStep (R130) -/

@[simp] theorem State.fsmStep_cfgRole (x : Byte) (va ec : List Byte) : (s.fsmStep x va ec).cfgRole = s.cfgRole := (rfl)
@[simp] theorem State.fsmStep_cfgTries (x : Byte) (va ec : List Byte) : (s.fsmStep x va ec).cfgTries = s.cfgTries := (rfl)
@[simp] theorem State.fsmStep_cfgTimeout (x : Byte) (va ec : List Byte) : (s.fsmStep x va ec).cfgTimeout = s.cfgTimeout := (rfl)
@[simp] theorem State.fsmStep_role (x : Byte) (va ec : List Byte) : (s.fsmStep x va ec).role = s.role := (rfl)
@[simp] theorem State.fsmStep_numTries (x : Byte) (va ec : List Byte) : (s.fsmStep x va ec).numTries = s.numTries := (rfl)
@[simp] theorem State.fsmStep_timeOut (x : Byte) (va ec : List Byte) : (s.fsmStep x va ec).timeOut = s.timeOut := (rfl)
@[simp] theorem State.fsmStep_collect (x : Byte) (va ec : List Byte) : (s.fsmStep x va ec).collect = s.collect := (rfl)
@[simp] theorem State.fsmStep_openf (x : Byte) (va ec : List Byte) : (s.fsmStep x va ec).openf = s.openf := (rfl)
@[simp] theorem State.fsmStep_rcv (x : Byte) (va ec : List Byte) : (s.fsmStep x va ec).rcv = fsmNext va ec x s.rcv := (rfl)
@[simp] theorem State.fsmStep_op (x : Byte) (va ec : List Byte) : (s.fsmStep x va ec).op = s.op := (rfl)
@[simp] theorem State.fsmStep_txbit (x : Byte) (va ec : List Byte) : (s.fsmStep x va ec).txbit = s.txbit := (rfl)
@[simp] theorem State.fsmStep_rxbit (x : Byte) (va ec : List Byte) : (s.fsmStep x va ec).rxbit = s.rxbit := (rfl)
@[simp] theorem State.fsmStep_retry (x : Byte) (va ec : List Byte) : (s.fsmStep x va ec).retry = s.retry := (rfl)
@[simp] theorem State.fsmStep_tmr (x : Byte) (va ec : List Byte) : (s.fsmStep x va ec).tmr = s.tmr := (rfl)
@[simp] theorem State.fsmStep_tarmed (x : Byte) (va ec : List Byte) : (s.fsmStep x va ec).tarmed = s.tarmed := (rfl)
@[simp] theorem State.fsmStep_body (x : Byte) (va ec : List Byte) : (s.fsmStep x va ec).body = s.body := (rfl)
@[simp] theorem State.fsmStep_result (x : Byte) (va ec : List Byte) : (s.fsmStep x va ec).result = s.result := (rfl)
@[simp] theorem State.fsmStep_txlen (x : Byte) (va ec : List Byte) : (s.fsmStep x va ec).txlen = s.txlen := (rfl)
@[simp] theorem State.fsmStep_rxlen (x : Byte) (va ec : List Byte) : (s.fsmStep x va ec).rxlen = s.rxlen := (rfl)
@[simp] theorem State.fsmStep_framelen (x : Byte) (va ec : List Byte) : (s.fsmStep x va ec).framelen = s.framelen := (rfl)
@[simp] theorem State.fsmStep_stat (x : Byte) (va ec : List Byte) : (s.fsmStep x va ec).stat = s.stat := (rfl)
@[simp] theorem State.fsmStep_txbuf (x : Byte) (va ec : List Byte) : (s.fsmStep x va ec).txbuf = s.txbuf := (rfl)
@[simp] theorem State.fsmStep_rxbuf (x : Byte) (va ec : List Byte) : (s.fsmStep x va ec).rxbuf = s.rxbuf := (rfl)
@[simp] theorem State.fsmStep_framebuf (x : Byte) (va ec : List Byte) : (s.fsmStep x va ec).framebuf = s.framebuf := (rfl)
@[simp] theorem State.fsmStep_rx (x : Byte) (va ec : List Byte) : (s.fsmStep x va ec).rx = s.rx := (rfl)
@[simp] theorem State.fsmStep_tx (x : Byte) (va ec : List Byte) : (s.fsmStep x va ec).tx = s.tx := (rfl)
@[simp] theorem State.fsmStep_done (x : Byte) (va ec : List Byte) : (s.fsmStep x va ec).done = s.done := (rfl)
@[simp] theorem State.fsmStep_statsValid (x : Byte) (va ec : List Byte) : (s.fsmStep x va ec).statsValid = s.statsValid := (rfl)
@[simp] theorem State.fsmStep_rdata (x : Byte) (va ec : List Byte) : (s.fsmStep x va ec).rdata = s.rdata := (rfl)
@[simp] theorem State.fsmStep_pend (x : Byte) (va ec : List Byte) : (s.fsmStep x va ec).pend = s.pend := (rfl)
@[simp] theorem State.fsmStep_build (x : Byte) (va ec : List Byte) : (s.fsmStep x va ec).build = s.build := (rfl)
@[simp] theorem State.fsmStep_inputs (x : Byte) (va ec : List Byte) : (s.fsmStep x va ec).inputs = s.inputs := (rfl)
@[simp] theorem State.fsmStep_codecOut (x : Byte) (va ec : List Byte) : (s.fsmStep x va ec).codecOut = s.codecOut := (rfl)
@[simp] theorem State.fsmStep_fresh (x : Byte) (va ec : List Byte) : (s.fsmStep x va ec).fresh = s.fresh := (rfl)
@[simp] theorem State.fsmStep_delivered (x : Byte) (va ec : List Byte) : (s.fsmStep x va ec).delivered = s.delivered := (rfl)

/-! ## enterBody (R117) -/

@[simp] theorem State.enterBody_cfgRole : (s.enterBody).cfgRole = s.cfgRole := (rfl)
@[simp] theorem State.enterBody_cfgTries : (s.enterBody).cfgTries = s.cfgTries := (rfl)
@[simp] theorem State.enterBody_cfgTimeout : (s.enterBody).cfgTimeout = s.cfgTimeout := (rfl)
@[simp] theorem State.enterBody_role : (s.enterBody).role = s.role := (rfl)
@[simp] theorem State.enterBody_numTries : (s.enterBody).numTries = s.numTries := (rfl)
@[simp] theorem State.enterBody_timeOut : (s.enterBody).timeOut = s.timeOut := (rfl)
@[simp] theorem State.enterBody_collect : (s.enterBody).collect = s.collect := (rfl)
@[simp] theorem State.enterBody_openf : (s.enterBody).openf = s.openf := (rfl)
@[simp] theorem State.enterBody_rcv : (s.enterBody).rcv = s.rcv := (rfl)
@[simp] theorem State.enterBody_op : (s.enterBody).op = .readBody := (rfl)
@[simp] theorem State.enterBody_txbit : (s.enterBody).txbit = s.txbit := (rfl)
@[simp] theorem State.enterBody_rxbit : (s.enterBody).rxbit = s.rxbit := (rfl)
@[simp] theorem State.enterBody_retry : (s.enterBody).retry = s.retry := (rfl)
@[simp] theorem State.enterBody_tmr : (s.enterBody).tmr = s.tmr := (rfl)
@[simp] theorem State.enterBody_tarmed : (s.enterBody).tarmed = s.tarmed := (rfl)
@[simp] theorem State.enterBody_body : (s.enterBody).body = Body.entry := (rfl)
@[simp] theorem State.enterBody_result : (s.enterBody).result = s.result := (rfl)
@[simp] theorem State.enterBody_txlen : (s.enterBody).txlen = s.txlen := (rfl)
@[simp] theorem State.enterBody_rxlen : (s.enterBody).rxlen = s.rxlen := (rfl)
@[simp] theorem State.enterBody_framelen : (s.enterBody).framelen = s.framelen := (rfl)
@[simp] theorem State.enterBody_stat : (s.enterBody).stat = s.stat := (rfl)
@[simp] theorem State.enterBody_txbuf : (s.enterBody).txbuf = s.txbuf := (rfl)
@[simp] theorem State.enterBody_rxbuf : (s.enterBody).rxbuf = s.rxbuf := (rfl)
@[simp] theorem State.enterBody_framebuf : (s.enterBody).framebuf = s.framebuf := (rfl)
@[simp] theorem State.enterBody_rx : (s.enterBody).rx = s.rx := (rfl)
@[simp] theorem State.enterBody_tx : (s.enterBody).tx = s.tx := (rfl)
@[simp] theorem State.enterBody_done : (s.enterBody).done = s.done := (rfl)
@[simp] theorem State.enterBody_statsValid : (s.enterBody).statsValid = s.statsValid := (rfl)
@[simp] theorem State.enterBody_rdata : (s.enterBody).rdata = s.rdata := (rfl)
@[simp] theorem State.enterBody_pend : (s.enterBody).pend = s.pend := (rfl)
@[simp] theorem State.enterBody_build : (s.enterBody).build = s.build := (rfl)
@[simp] theorem State.enterBody_inputs : (s.enterBody).inputs = s.inputs := (rfl)
@[simp] theorem State.enterBody_codecOut : (s.enterBody).codecOut = s.codecOut := (rfl)
@[simp] theorem State.enterBody_fresh : (s.enterBody).fresh = s.fresh := (rfl)
@[simp] theorem State.enterBody_delivered : (s.enterBody).delivered = s.delivered := (rfl)

/-! ## handOver (log 9) -/

@[simp] theorem State.handOver_cfgRole (o : CodecOut) : (s.handOver o).cfgRole = s.cfgRole := (rfl)
@[simp] theorem State.handOver_cfgTries (o : CodecOut) : (s.handOver o).cfgTries = s.cfgTries := (rfl)
@[simp] theorem State.handOver_cfgTimeout (o : CodecOut) : (s.handOver o).cfgTimeout = s.cfgTimeout := (rfl)
@[simp] theorem State.handOver_role (o : CodecOut) : (s.handOver o).role = s.role := (rfl)
@[simp] theorem State.handOver_numTries (o : CodecOut) : (s.handOver o).numTries = s.numTries := (rfl)
@[simp] theorem State.handOver_timeOut (o : CodecOut) : (s.handOver o).timeOut = s.timeOut := (rfl)
@[simp] theorem State.handOver_collect (o : CodecOut) : (s.handOver o).collect = s.collect := (rfl)
@[simp] theorem State.handOver_openf (o : CodecOut) : (s.handOver o).openf = s.openf := (rfl)
@[simp] theorem State.handOver_rcv (o : CodecOut) : (s.handOver o).rcv = s.rcv := (rfl)
@[simp] theorem State.handOver_op (o : CodecOut) : (s.handOver o).op = s.op := (rfl)
@[simp] theorem State.handOver_txbit (o : CodecOut) : (s.handOver o).txbit = s.txbit := (rfl)
@[simp] theorem State.handOver_rxbit (o : CodecOut) : (s.handOver o).rxbit = s.rxbit := (rfl)
@[simp] theorem State.handOver_retry (o : CodecOut) : (s.handOver o).retry = s.retry := (rfl)
@[simp] theorem State.handOver_tmr (o : CodecOut) : (s.handOver o).tmr = s.tmr := (rfl)
@[simp] theorem State.handOver_tarmed (o : CodecOut) : (s.handOver o).tarmed = s.tarmed := (rfl)
@[simp] theorem State.handOver_body (o : CodecOut) : (s.handOver o).body = s.body := (rfl)
@[simp] theorem State.handOver_result (o : CodecOut) : (s.handOver o).result = s.result := (rfl)
@[simp] theorem State.handOver_txlen (o : CodecOut) : (s.handOver o).txlen = s.txlen := (rfl)
@[simp] theorem State.handOver_rxlen (o : CodecOut) : (s.handOver o).rxlen = s.rxlen := (rfl)
@[simp] theorem State.handOver_framelen (o : CodecOut) : (s.handOver o).framelen = s.framelen := (rfl)
@[simp] theorem State.handOver_stat (o : CodecOut) : (s.handOver o).stat = s.stat := (rfl)
@[simp] theorem State.handOver_txbuf (o : CodecOut) : (s.handOver o).txbuf = s.txbuf := (rfl)
@[simp] theorem State.handOver_rxbuf (o : CodecOut) : (s.handOver o).rxbuf = s.rxbuf := (rfl)
@[simp] theorem State.handOver_framebuf (o : CodecOut) : (s.handOver o).framebuf = s.framebuf := (rfl)
@[simp] theorem State.handOver_rx (o : CodecOut) : (s.handOver o).rx = s.rx := (rfl)
@[simp] theorem State.handOver_tx (o : CodecOut) : (s.handOver o).tx = s.tx := (rfl)
@[simp] theorem State.handOver_done (o : CodecOut) : (s.handOver o).done = s.done := (rfl)
@[simp] theorem State.handOver_statsValid (o : CodecOut) : (s.handOver o).statsValid = s.statsValid := (rfl)
@[simp] theorem State.handOver_rdata (o : CodecOut) : (s.handOver o).rdata = s.rdata := (rfl)
@[simp] theorem State.handOver_pend (o : CodecOut) : (s.handOver o).pend = s.pend := (rfl)
@[simp] theorem State.handOver_build (o : CodecOut) : (s.handOver o).build = s.build := (rfl)
@[simp] theorem State.handOver_inputs (o : CodecOut) : (s.handOver o).inputs = s.inputs := (rfl)
@[simp] theorem State.handOver_codecOut (o : CodecOut) : (s.handOver o).codecOut = o := (rfl)
@[simp] theorem State.handOver_fresh (o : CodecOut) : (s.handOver o).fresh = s.fresh := (rfl)
@[simp] theorem State.handOver_delivered (o : CodecOut) : (s.handOver o).delivered = s.delivered := (rfl)

/-! ## awaitAnswer (R152, R172) -/

@[simp] theorem State.awaitAnswer_cfgRole : (s.awaitAnswer).cfgRole = s.cfgRole := (rfl)
@[simp] theorem State.awaitAnswer_cfgTries : (s.awaitAnswer).cfgTries = s.cfgTries := (rfl)
@[simp] theorem State.awaitAnswer_cfgTimeout : (s.awaitAnswer).cfgTimeout = s.cfgTimeout := (rfl)
@[simp] theorem State.awaitAnswer_role : (s.awaitAnswer).role = s.role := (rfl)
@[simp] theorem State.awaitAnswer_numTries : (s.awaitAnswer).numTries = s.numTries := (rfl)
@[simp] theorem State.awaitAnswer_timeOut : (s.awaitAnswer).timeOut = s.timeOut := (rfl)
@[simp] theorem State.awaitAnswer_collect : (s.awaitAnswer).collect = s.collect := (rfl)
@[simp] theorem State.awaitAnswer_openf : (s.awaitAnswer).openf = s.openf := (rfl)
@[simp] theorem State.awaitAnswer_rcv : (s.awaitAnswer).rcv = { s.rcv with fsm := .awaitFlag } := (rfl)
@[simp] theorem State.awaitAnswer_op : (s.awaitAnswer).op = s.op := (rfl)
@[simp] theorem State.awaitAnswer_txbit : (s.awaitAnswer).txbit = s.txbit := (rfl)
@[simp] theorem State.awaitAnswer_rxbit : (s.awaitAnswer).rxbit = s.rxbit := (rfl)
@[simp] theorem State.awaitAnswer_retry : (s.awaitAnswer).retry = s.retry := (rfl)
@[simp] theorem State.awaitAnswer_tmr : (s.awaitAnswer).tmr = s.timeOut := (rfl)
@[simp] theorem State.awaitAnswer_tarmed : (s.awaitAnswer).tarmed = true := (rfl)
@[simp] theorem State.awaitAnswer_body : (s.awaitAnswer).body = s.body := (rfl)
@[simp] theorem State.awaitAnswer_result : (s.awaitAnswer).result = s.result := (rfl)
@[simp] theorem State.awaitAnswer_txlen : (s.awaitAnswer).txlen = s.txlen := (rfl)
@[simp] theorem State.awaitAnswer_rxlen : (s.awaitAnswer).rxlen = s.rxlen := (rfl)
@[simp] theorem State.awaitAnswer_framelen : (s.awaitAnswer).framelen = s.framelen := (rfl)
@[simp] theorem State.awaitAnswer_stat : (s.awaitAnswer).stat = s.stat := (rfl)
@[simp] theorem State.awaitAnswer_txbuf : (s.awaitAnswer).txbuf = s.txbuf := (rfl)
@[simp] theorem State.awaitAnswer_rxbuf : (s.awaitAnswer).rxbuf = s.rxbuf := (rfl)
@[simp] theorem State.awaitAnswer_framebuf : (s.awaitAnswer).framebuf = s.framebuf := (rfl)
@[simp] theorem State.awaitAnswer_rx : (s.awaitAnswer).rx = s.rx := (rfl)
@[simp] theorem State.awaitAnswer_tx : (s.awaitAnswer).tx = s.tx := (rfl)
@[simp] theorem State.awaitAnswer_done : (s.awaitAnswer).done = s.done := (rfl)
@[simp] theorem State.awaitAnswer_statsValid : (s.awaitAnswer).statsValid = s.statsValid := (rfl)
@[simp] theorem State.awaitAnswer_rdata : (s.awaitAnswer).rdata = s.rdata := (rfl)
@[simp] theorem State.awaitAnswer_pend : (s.awaitAnswer).pend = s.pend := (rfl)
@[simp] theorem State.awaitAnswer_build : (s.awaitAnswer).build = s.build := (rfl)
@[simp] theorem State.awaitAnswer_inputs : (s.awaitAnswer).inputs = s.inputs := (rfl)
@[simp] theorem State.awaitAnswer_codecOut : (s.awaitAnswer).codecOut = s.codecOut := (rfl)
@[simp] theorem State.awaitAnswer_fresh : (s.awaitAnswer).fresh = s.fresh := (rfl)
@[simp] theorem State.awaitAnswer_delivered : (s.awaitAnswer).delivered = s.delivered := (rfl)

/-! ## sendSet (R152) -/

@[simp] theorem State.sendSet_cfgRole : (s.sendSet).cfgRole = s.cfgRole := by
  unfold State.sendSet; split <;> rfl
@[simp] theorem State.sendSet_cfgTries : (s.sendSet).cfgTries = s.cfgTries := by
  unfold State.sendSet; split <;> rfl
@[simp] theorem State.sendSet_cfgTimeout : (s.sendSet).cfgTimeout = s.cfgTimeout := by
  unfold State.sendSet; split <;> rfl
@[simp] theorem State.sendSet_role : (s.sendSet).role = s.role := by
  unfold State.sendSet; split <;> rfl
@[simp] theorem State.sendSet_numTries : (s.sendSet).numTries = s.numTries := by
  unfold State.sendSet; split <;> rfl
@[simp] theorem State.sendSet_timeOut : (s.sendSet).timeOut = s.timeOut := by
  unfold State.sendSet; split <;> rfl
@[simp] theorem State.sendSet_collect : (s.sendSet).collect = s.collect := by
  unfold State.sendSet; split <;> rfl
@[simp] theorem State.sendSet_openf : (s.sendSet).openf = s.openf := by
  unfold State.sendSet; split <;> rfl
@[simp] theorem State.sendSet_rcv : (s.sendSet).rcv = s.rcv := by
  unfold State.sendSet; split <;> rfl
@[simp] theorem State.sendSet_op : (s.sendSet).op = s.op := by
  unfold State.sendSet; split <;> rfl
@[simp] theorem State.sendSet_txbit : (s.sendSet).txbit = s.txbit := by
  unfold State.sendSet; split <;> rfl
@[simp] theorem State.sendSet_rxbit : (s.sendSet).rxbit = s.rxbit := by
  unfold State.sendSet; split <;> rfl
@[simp] theorem State.sendSet_retry : (s.sendSet).retry = s.retry := by
  unfold State.sendSet; split <;> rfl
@[simp] theorem State.sendSet_tmr : (s.sendSet).tmr = s.tmr := by
  unfold State.sendSet; split <;> rfl
@[simp] theorem State.sendSet_tarmed : (s.sendSet).tarmed = s.tarmed := by
  unfold State.sendSet; split <;> rfl
@[simp] theorem State.sendSet_body : (s.sendSet).body = s.body := by
  unfold State.sendSet; split <;> rfl
@[simp] theorem State.sendSet_result : (s.sendSet).result = s.result := by
  unfold State.sendSet; split <;> rfl
@[simp] theorem State.sendSet_txlen : (s.sendSet).txlen = s.txlen := by
  unfold State.sendSet; split <;> rfl
@[simp] theorem State.sendSet_rxlen : (s.sendSet).rxlen = s.rxlen := by
  unfold State.sendSet; split <;> rfl
@[simp] theorem State.sendSet_framelen : (s.sendSet).framelen = s.framelen := by
  unfold State.sendSet; split <;> rfl
@[simp] theorem State.sendSet_txbuf : (s.sendSet).txbuf = s.txbuf := by
  unfold State.sendSet; split <;> rfl
@[simp] theorem State.sendSet_rxbuf : (s.sendSet).rxbuf = s.rxbuf := by
  unfold State.sendSet; split <;> rfl
@[simp] theorem State.sendSet_framebuf : (s.sendSet).framebuf = s.framebuf := by
  unfold State.sendSet; split <;> rfl
@[simp] theorem State.sendSet_rx : (s.sendSet).rx = s.rx := by
  unfold State.sendSet; split <;> rfl
@[simp] theorem State.sendSet_done : (s.sendSet).done = s.done := by
  unfold State.sendSet; split <;> rfl
@[simp] theorem State.sendSet_statsValid : (s.sendSet).statsValid = s.statsValid := by
  unfold State.sendSet; split <;> rfl
@[simp] theorem State.sendSet_rdata : (s.sendSet).rdata = s.rdata := by
  unfold State.sendSet; split <;> rfl
@[simp] theorem State.sendSet_pend : (s.sendSet).pend = s.pend := by
  unfold State.sendSet; split <;> rfl
@[simp] theorem State.sendSet_build : (s.sendSet).build = s.build := by
  unfold State.sendSet; split <;> rfl
@[simp] theorem State.sendSet_inputs : (s.sendSet).inputs = s.inputs := by
  unfold State.sendSet; split <;> rfl
@[simp] theorem State.sendSet_codecOut : (s.sendSet).codecOut = s.codecOut := by
  unfold State.sendSet; split <;> rfl
@[simp] theorem State.sendSet_fresh : (s.sendSet).fresh = s.fresh := by
  unfold State.sendSet; split <;> rfl
@[simp] theorem State.sendSet_delivered : (s.sendSet).delivered = s.delivered := by
  unfold State.sendSet; split <;> rfl

/-! ## sendDisc (R157) -/

@[simp] theorem State.sendDisc_cfgRole : (s.sendDisc).cfgRole = s.cfgRole := by
  unfold State.sendDisc; split <;> rfl
@[simp] theorem State.sendDisc_cfgTries : (s.sendDisc).cfgTries = s.cfgTries := by
  unfold State.sendDisc; split <;> rfl
@[simp] theorem State.sendDisc_cfgTimeout : (s.sendDisc).cfgTimeout = s.cfgTimeout := by
  unfold State.sendDisc; split <;> rfl
@[simp] theorem State.sendDisc_role : (s.sendDisc).role = s.role := by
  unfold State.sendDisc; split <;> rfl
@[simp] theorem State.sendDisc_numTries : (s.sendDisc).numTries = s.numTries := by
  unfold State.sendDisc; split <;> rfl
@[simp] theorem State.sendDisc_timeOut : (s.sendDisc).timeOut = s.timeOut := by
  unfold State.sendDisc; split <;> rfl
@[simp] theorem State.sendDisc_collect : (s.sendDisc).collect = s.collect := by
  unfold State.sendDisc; split <;> rfl
@[simp] theorem State.sendDisc_openf : (s.sendDisc).openf = s.openf := by
  unfold State.sendDisc; split <;> rfl
@[simp] theorem State.sendDisc_rcv : (s.sendDisc).rcv = s.rcv := by
  unfold State.sendDisc; split <;> rfl
@[simp] theorem State.sendDisc_op : (s.sendDisc).op = s.op := by
  unfold State.sendDisc; split <;> rfl
@[simp] theorem State.sendDisc_txbit : (s.sendDisc).txbit = s.txbit := by
  unfold State.sendDisc; split <;> rfl
@[simp] theorem State.sendDisc_rxbit : (s.sendDisc).rxbit = s.rxbit := by
  unfold State.sendDisc; split <;> rfl
@[simp] theorem State.sendDisc_retry : (s.sendDisc).retry = s.retry := by
  unfold State.sendDisc; split <;> rfl
@[simp] theorem State.sendDisc_tmr : (s.sendDisc).tmr = s.tmr := by
  unfold State.sendDisc; split <;> rfl
@[simp] theorem State.sendDisc_tarmed : (s.sendDisc).tarmed = s.tarmed := by
  unfold State.sendDisc; split <;> rfl
@[simp] theorem State.sendDisc_body : (s.sendDisc).body = s.body := by
  unfold State.sendDisc; split <;> rfl
@[simp] theorem State.sendDisc_result : (s.sendDisc).result = s.result := by
  unfold State.sendDisc; split <;> rfl
@[simp] theorem State.sendDisc_txlen : (s.sendDisc).txlen = s.txlen := by
  unfold State.sendDisc; split <;> rfl
@[simp] theorem State.sendDisc_rxlen : (s.sendDisc).rxlen = s.rxlen := by
  unfold State.sendDisc; split <;> rfl
@[simp] theorem State.sendDisc_framelen : (s.sendDisc).framelen = s.framelen := by
  unfold State.sendDisc; split <;> rfl
@[simp] theorem State.sendDisc_txbuf : (s.sendDisc).txbuf = s.txbuf := by
  unfold State.sendDisc; split <;> rfl
@[simp] theorem State.sendDisc_rxbuf : (s.sendDisc).rxbuf = s.rxbuf := by
  unfold State.sendDisc; split <;> rfl
@[simp] theorem State.sendDisc_framebuf : (s.sendDisc).framebuf = s.framebuf := by
  unfold State.sendDisc; split <;> rfl
@[simp] theorem State.sendDisc_rx : (s.sendDisc).rx = s.rx := by
  unfold State.sendDisc; split <;> rfl
@[simp] theorem State.sendDisc_done : (s.sendDisc).done = s.done := by
  unfold State.sendDisc; split <;> rfl
@[simp] theorem State.sendDisc_statsValid : (s.sendDisc).statsValid = s.statsValid := by
  unfold State.sendDisc; split <;> rfl
@[simp] theorem State.sendDisc_rdata : (s.sendDisc).rdata = s.rdata := by
  unfold State.sendDisc; split <;> rfl
@[simp] theorem State.sendDisc_pend : (s.sendDisc).pend = s.pend := by
  unfold State.sendDisc; split <;> rfl
@[simp] theorem State.sendDisc_build : (s.sendDisc).build = s.build := by
  unfold State.sendDisc; split <;> rfl
@[simp] theorem State.sendDisc_inputs : (s.sendDisc).inputs = s.inputs := by
  unfold State.sendDisc; split <;> rfl
@[simp] theorem State.sendDisc_codecOut : (s.sendDisc).codecOut = s.codecOut := by
  unfold State.sendDisc; split <;> rfl
@[simp] theorem State.sendDisc_fresh : (s.sendDisc).fresh = s.fresh := by
  unfold State.sendDisc; split <;> rfl
@[simp] theorem State.sendDisc_delivered : (s.sendDisc).delivered = s.delivered := by
  unfold State.sendDisc; split <;> rfl

/-! ## sendUa (R153) -/

@[simp] theorem State.sendUa_cfgRole : (s.sendUa).cfgRole = s.cfgRole := (rfl)
@[simp] theorem State.sendUa_cfgTries : (s.sendUa).cfgTries = s.cfgTries := (rfl)
@[simp] theorem State.sendUa_cfgTimeout : (s.sendUa).cfgTimeout = s.cfgTimeout := (rfl)
@[simp] theorem State.sendUa_role : (s.sendUa).role = s.role := (rfl)
@[simp] theorem State.sendUa_numTries : (s.sendUa).numTries = s.numTries := (rfl)
@[simp] theorem State.sendUa_timeOut : (s.sendUa).timeOut = s.timeOut := (rfl)
@[simp] theorem State.sendUa_collect : (s.sendUa).collect = s.collect := (rfl)
@[simp] theorem State.sendUa_openf : (s.sendUa).openf = s.openf := (rfl)
@[simp] theorem State.sendUa_rcv : (s.sendUa).rcv = s.rcv := (rfl)
@[simp] theorem State.sendUa_op : (s.sendUa).op = s.op := (rfl)
@[simp] theorem State.sendUa_txbit : (s.sendUa).txbit = s.txbit := (rfl)
@[simp] theorem State.sendUa_rxbit : (s.sendUa).rxbit = s.rxbit := (rfl)
@[simp] theorem State.sendUa_retry : (s.sendUa).retry = s.retry := (rfl)
@[simp] theorem State.sendUa_tmr : (s.sendUa).tmr = s.tmr := (rfl)
@[simp] theorem State.sendUa_tarmed : (s.sendUa).tarmed = s.tarmed := (rfl)
@[simp] theorem State.sendUa_body : (s.sendUa).body = s.body := (rfl)
@[simp] theorem State.sendUa_result : (s.sendUa).result = s.result := (rfl)
@[simp] theorem State.sendUa_txlen : (s.sendUa).txlen = s.txlen := (rfl)
@[simp] theorem State.sendUa_rxlen : (s.sendUa).rxlen = s.rxlen := (rfl)
@[simp] theorem State.sendUa_framelen : (s.sendUa).framelen = s.framelen := (rfl)
@[simp] theorem State.sendUa_stat : (s.sendUa).stat = { s.stat with bytesSent := s.bumped s.stat.bytesSent 5 } := (rfl)
@[simp] theorem State.sendUa_txbuf : (s.sendUa).txbuf = s.txbuf := (rfl)
@[simp] theorem State.sendUa_rxbuf : (s.sendUa).rxbuf = s.rxbuf := (rfl)
@[simp] theorem State.sendUa_framebuf : (s.sendUa).framebuf = s.framebuf := (rfl)
@[simp] theorem State.sendUa_rx : (s.sendUa).rx = s.rx := (rfl)
@[simp] theorem State.sendUa_tx : (s.sendUa).tx = s.tx ++ encCtrl (replyAddr s.role) Config.UA := (rfl)
@[simp] theorem State.sendUa_done : (s.sendUa).done = s.done := (rfl)
@[simp] theorem State.sendUa_statsValid : (s.sendUa).statsValid = s.statsValid := (rfl)
@[simp] theorem State.sendUa_rdata : (s.sendUa).rdata = s.rdata := (rfl)
@[simp] theorem State.sendUa_pend : (s.sendUa).pend = s.pend := (rfl)
@[simp] theorem State.sendUa_build : (s.sendUa).build = s.build := (rfl)
@[simp] theorem State.sendUa_inputs : (s.sendUa).inputs = s.inputs := (rfl)
@[simp] theorem State.sendUa_codecOut : (s.sendUa).codecOut = s.codecOut := (rfl)
@[simp] theorem State.sendUa_fresh : (s.sendUa).fresh = s.fresh := (rfl)
@[simp] theorem State.sendUa_delivered : (s.sendUa).delivered = s.delivered := (rfl)

/-! ## openStart (R152) -/

@[simp] theorem State.openStart_cfgRole : (s.openStart).cfgRole = s.cfgRole := by
  simp [State.openStart]
@[simp] theorem State.openStart_cfgTries : (s.openStart).cfgTries = s.cfgTries := by
  simp [State.openStart]
@[simp] theorem State.openStart_cfgTimeout : (s.openStart).cfgTimeout = s.cfgTimeout := by
  simp [State.openStart]
@[simp] theorem State.openStart_role : (s.openStart).role = s.cfgRole := by
  simp [State.openStart]
@[simp] theorem State.openStart_numTries : (s.openStart).numTries = s.cfgTries := by
  simp [State.openStart]
@[simp] theorem State.openStart_timeOut : (s.openStart).timeOut = s.cfgTimeout := by
  simp [State.openStart]
@[simp] theorem State.openStart_collect : (s.openStart).collect = s.collect := by
  simp [State.openStart]
@[simp] theorem State.openStart_openf : (s.openStart).openf = s.openf := by
  simp [State.openStart]
@[simp] theorem State.openStart_rcv : (s.openStart).rcv = { s.rcv with fsm := .awaitFlag } := by
  simp [State.openStart]
@[simp] theorem State.openStart_op : (s.openStart).op = .openWait := by
  simp [State.openStart]
@[simp] theorem State.openStart_txbit : (s.openStart).txbit = false := by
  simp [State.openStart]
@[simp] theorem State.openStart_rxbit : (s.openStart).rxbit = false := by
  simp [State.openStart]
@[simp] theorem State.openStart_retry : (s.openStart).retry = 0 := by
  simp [State.openStart]
@[simp] theorem State.openStart_tmr : (s.openStart).tmr = s.cfgTimeout := by
  simp [State.openStart]
@[simp] theorem State.openStart_tarmed : (s.openStart).tarmed = true := by
  simp [State.openStart]
@[simp] theorem State.openStart_body : (s.openStart).body = s.body := by
  simp [State.openStart]
@[simp] theorem State.openStart_result : (s.openStart).result = .none := by
  simp [State.openStart]
@[simp] theorem State.openStart_txlen : (s.openStart).txlen = s.txlen := by
  simp [State.openStart]
@[simp] theorem State.openStart_rxlen : (s.openStart).rxlen = s.rxlen := by
  simp [State.openStart]
@[simp] theorem State.openStart_framelen : (s.openStart).framelen = s.framelen := by
  simp [State.openStart]
@[simp] theorem State.openStart_txbuf : (s.openStart).txbuf = s.txbuf := by
  simp [State.openStart]
@[simp] theorem State.openStart_rxbuf : (s.openStart).rxbuf = s.rxbuf := by
  simp [State.openStart]
@[simp] theorem State.openStart_framebuf : (s.openStart).framebuf = s.framebuf := by
  simp [State.openStart]
@[simp] theorem State.openStart_rx : (s.openStart).rx = s.rx := by
  simp [State.openStart]
@[simp] theorem State.openStart_done : (s.openStart).done = s.done := by
  simp [State.openStart]
@[simp] theorem State.openStart_statsValid : (s.openStart).statsValid = s.statsValid := by
  simp [State.openStart]
@[simp] theorem State.openStart_rdata : (s.openStart).rdata = s.rdata := by
  simp [State.openStart]
@[simp] theorem State.openStart_pend : (s.openStart).pend = s.pend := by
  simp [State.openStart]
@[simp] theorem State.openStart_build : (s.openStart).build = s.build := by
  simp [State.openStart]
@[simp] theorem State.openStart_inputs : (s.openStart).inputs = s.inputs := by
  simp [State.openStart]
@[simp] theorem State.openStart_codecOut : (s.openStart).codecOut = s.codecOut := by
  simp [State.openStart]
@[simp] theorem State.openStart_fresh : (s.openStart).fresh = s.fresh := by
  simp [State.openStart]
@[simp] theorem State.openStart_delivered : (s.openStart).delivered = s.delivered := by
  simp [State.openStart]

/-! ## openDone (R153) -/

@[simp] theorem State.openDone_cfgRole : (s.openDone).cfgRole = s.cfgRole := (rfl)
@[simp] theorem State.openDone_cfgTries : (s.openDone).cfgTries = s.cfgTries := (rfl)
@[simp] theorem State.openDone_cfgTimeout : (s.openDone).cfgTimeout = s.cfgTimeout := (rfl)
@[simp] theorem State.openDone_role : (s.openDone).role = s.role := (rfl)
@[simp] theorem State.openDone_numTries : (s.openDone).numTries = s.numTries := (rfl)
@[simp] theorem State.openDone_timeOut : (s.openDone).timeOut = s.timeOut := (rfl)
@[simp] theorem State.openDone_collect : (s.openDone).collect = s.collect := (rfl)
@[simp] theorem State.openDone_openf : (s.openDone).openf = true := (rfl)
@[simp] theorem State.openDone_rcv : (s.openDone).rcv = s.rcv := (rfl)
@[simp] theorem State.openDone_op : (s.openDone).op = .idle := (rfl)
@[simp] theorem State.openDone_txbit : (s.openDone).txbit = s.txbit := (rfl)
@[simp] theorem State.openDone_rxbit : (s.openDone).rxbit = s.rxbit := (rfl)
@[simp] theorem State.openDone_retry : (s.openDone).retry = s.retry := (rfl)
@[simp] theorem State.openDone_tmr : (s.openDone).tmr = s.tmr := (rfl)
@[simp] theorem State.openDone_tarmed : (s.openDone).tarmed = false := (rfl)
@[simp] theorem State.openDone_body : (s.openDone).body = s.body := (rfl)
@[simp] theorem State.openDone_result : (s.openDone).result = .ok := (rfl)
@[simp] theorem State.openDone_txlen : (s.openDone).txlen = s.txlen := (rfl)
@[simp] theorem State.openDone_rxlen : (s.openDone).rxlen = s.rxlen := (rfl)
@[simp] theorem State.openDone_framelen : (s.openDone).framelen = s.framelen := (rfl)
@[simp] theorem State.openDone_stat : (s.openDone).stat = s.stat := (rfl)
@[simp] theorem State.openDone_txbuf : (s.openDone).txbuf = s.txbuf := (rfl)
@[simp] theorem State.openDone_rxbuf : (s.openDone).rxbuf = s.rxbuf := (rfl)
@[simp] theorem State.openDone_framebuf : (s.openDone).framebuf = s.framebuf := (rfl)
@[simp] theorem State.openDone_rx : (s.openDone).rx = s.rx := (rfl)
@[simp] theorem State.openDone_tx : (s.openDone).tx = s.tx := (rfl)
@[simp] theorem State.openDone_done : (s.openDone).done = true := (rfl)
@[simp] theorem State.openDone_statsValid : (s.openDone).statsValid = s.statsValid := (rfl)
@[simp] theorem State.openDone_rdata : (s.openDone).rdata = s.rdata := (rfl)
@[simp] theorem State.openDone_pend : (s.openDone).pend = s.pend := (rfl)
@[simp] theorem State.openDone_build : (s.openDone).build = s.build := (rfl)
@[simp] theorem State.openDone_inputs : (s.openDone).inputs = s.inputs := (rfl)
@[simp] theorem State.openDone_codecOut : (s.openDone).codecOut = s.codecOut := (rfl)
@[simp] theorem State.openDone_fresh : (s.openDone).fresh = s.fresh := (rfl)
@[simp] theorem State.openDone_delivered : (s.openDone).delivered = s.delivered := (rfl)

/-! ## closeStart (R157) -/

@[simp] theorem State.closeStart_cfgRole (c : Bool) : (s.closeStart c).cfgRole = s.cfgRole := by
  simp [State.closeStart]
@[simp] theorem State.closeStart_cfgTries (c : Bool) : (s.closeStart c).cfgTries = s.cfgTries := by
  simp [State.closeStart]
@[simp] theorem State.closeStart_cfgTimeout (c : Bool) : (s.closeStart c).cfgTimeout = s.cfgTimeout := by
  simp [State.closeStart]
@[simp] theorem State.closeStart_role (c : Bool) : (s.closeStart c).role = s.role := by
  simp [State.closeStart]
@[simp] theorem State.closeStart_numTries (c : Bool) : (s.closeStart c).numTries = s.numTries := by
  simp [State.closeStart]
@[simp] theorem State.closeStart_timeOut (c : Bool) : (s.closeStart c).timeOut = s.timeOut := by
  simp [State.closeStart]
@[simp] theorem State.closeStart_collect (c : Bool) : (s.closeStart c).collect = c := by
  simp [State.closeStart]
@[simp] theorem State.closeStart_openf (c : Bool) : (s.closeStart c).openf = s.openf := by
  simp [State.closeStart]
@[simp] theorem State.closeStart_rcv (c : Bool) : (s.closeStart c).rcv = { s.rcv with fsm := .awaitFlag } := by
  simp [State.closeStart]
@[simp] theorem State.closeStart_op (c : Bool) : (s.closeStart c).op = .closeWait := by
  simp [State.closeStart]
@[simp] theorem State.closeStart_txbit (c : Bool) : (s.closeStart c).txbit = s.txbit := by
  simp [State.closeStart]
@[simp] theorem State.closeStart_rxbit (c : Bool) : (s.closeStart c).rxbit = s.rxbit := by
  simp [State.closeStart]
@[simp] theorem State.closeStart_retry (c : Bool) : (s.closeStart c).retry = 0 := by
  simp [State.closeStart]
@[simp] theorem State.closeStart_tmr (c : Bool) : (s.closeStart c).tmr = s.timeOut := by
  simp [State.closeStart]
@[simp] theorem State.closeStart_tarmed (c : Bool) : (s.closeStart c).tarmed = true := by
  simp [State.closeStart]
@[simp] theorem State.closeStart_body (c : Bool) : (s.closeStart c).body = s.body := by
  simp [State.closeStart]
@[simp] theorem State.closeStart_result (c : Bool) : (s.closeStart c).result = .none := by
  simp [State.closeStart]
@[simp] theorem State.closeStart_txlen (c : Bool) : (s.closeStart c).txlen = s.txlen := by
  simp [State.closeStart]
@[simp] theorem State.closeStart_rxlen (c : Bool) : (s.closeStart c).rxlen = s.rxlen := by
  simp [State.closeStart]
@[simp] theorem State.closeStart_framelen (c : Bool) : (s.closeStart c).framelen = s.framelen := by
  simp [State.closeStart]
@[simp] theorem State.closeStart_txbuf (c : Bool) : (s.closeStart c).txbuf = s.txbuf := by
  simp [State.closeStart]
@[simp] theorem State.closeStart_rxbuf (c : Bool) : (s.closeStart c).rxbuf = s.rxbuf := by
  simp [State.closeStart]
@[simp] theorem State.closeStart_framebuf (c : Bool) : (s.closeStart c).framebuf = s.framebuf := by
  simp [State.closeStart]
@[simp] theorem State.closeStart_rx (c : Bool) : (s.closeStart c).rx = s.rx := by
  simp [State.closeStart]
@[simp] theorem State.closeStart_done (c : Bool) : (s.closeStart c).done = s.done := by
  simp [State.closeStart]
@[simp] theorem State.closeStart_statsValid (c : Bool) : (s.closeStart c).statsValid = s.statsValid := by
  simp [State.closeStart]
@[simp] theorem State.closeStart_rdata (c : Bool) : (s.closeStart c).rdata = s.rdata := by
  simp [State.closeStart]
@[simp] theorem State.closeStart_pend (c : Bool) : (s.closeStart c).pend = s.pend := by
  simp [State.closeStart]
@[simp] theorem State.closeStart_build (c : Bool) : (s.closeStart c).build = s.build := by
  simp [State.closeStart]
@[simp] theorem State.closeStart_inputs (c : Bool) : (s.closeStart c).inputs = s.inputs := by
  simp [State.closeStart]
@[simp] theorem State.closeStart_codecOut (c : Bool) : (s.closeStart c).codecOut = s.codecOut := by
  simp [State.closeStart]
@[simp] theorem State.closeStart_fresh (c : Bool) : (s.closeStart c).fresh = s.fresh := by
  simp [State.closeStart]
@[simp] theorem State.closeStart_delivered (c : Bool) : (s.closeStart c).delivered = s.delivered := by
  simp [State.closeStart]

/-! ## closeDone (R158) -/

@[simp] theorem State.closeDone_cfgRole : (s.closeDone).cfgRole = s.cfgRole := by
  simp [State.closeDone]
@[simp] theorem State.closeDone_cfgTries : (s.closeDone).cfgTries = s.cfgTries := by
  simp [State.closeDone]
@[simp] theorem State.closeDone_cfgTimeout : (s.closeDone).cfgTimeout = s.cfgTimeout := by
  simp [State.closeDone]
@[simp] theorem State.closeDone_role : (s.closeDone).role = s.role := by
  simp [State.closeDone]
@[simp] theorem State.closeDone_numTries : (s.closeDone).numTries = s.numTries := by
  simp [State.closeDone]
@[simp] theorem State.closeDone_timeOut : (s.closeDone).timeOut = s.timeOut := by
  simp [State.closeDone]
@[simp] theorem State.closeDone_collect : (s.closeDone).collect = s.collect := by
  simp [State.closeDone]
@[simp] theorem State.closeDone_openf : (s.closeDone).openf = false := by
  simp [State.closeDone]
@[simp] theorem State.closeDone_rcv : (s.closeDone).rcv = s.rcv := by
  simp [State.closeDone]
@[simp] theorem State.closeDone_op : (s.closeDone).op = .idle := by
  simp [State.closeDone]
@[simp] theorem State.closeDone_txbit : (s.closeDone).txbit = s.txbit := by
  simp [State.closeDone]
@[simp] theorem State.closeDone_rxbit : (s.closeDone).rxbit = s.rxbit := by
  simp [State.closeDone]
@[simp] theorem State.closeDone_retry : (s.closeDone).retry = s.retry := by
  simp [State.closeDone]
@[simp] theorem State.closeDone_tmr : (s.closeDone).tmr = s.tmr := by
  simp [State.closeDone]
@[simp] theorem State.closeDone_tarmed : (s.closeDone).tarmed = false := by
  simp [State.closeDone]
@[simp] theorem State.closeDone_body : (s.closeDone).body = s.body := by
  simp [State.closeDone]
@[simp] theorem State.closeDone_result : (s.closeDone).result = .ok := by
  simp [State.closeDone]
@[simp] theorem State.closeDone_txlen : (s.closeDone).txlen = s.txlen := by
  simp [State.closeDone]
@[simp] theorem State.closeDone_rxlen : (s.closeDone).rxlen = s.rxlen := by
  simp [State.closeDone]
@[simp] theorem State.closeDone_framelen : (s.closeDone).framelen = s.framelen := by
  simp [State.closeDone]
@[simp] theorem State.closeDone_stat : (s.closeDone).stat = s.stat := by
  simp [State.closeDone]
@[simp] theorem State.closeDone_txbuf : (s.closeDone).txbuf = s.txbuf := by
  simp [State.closeDone]
@[simp] theorem State.closeDone_rxbuf : (s.closeDone).rxbuf = s.rxbuf := by
  simp [State.closeDone]
@[simp] theorem State.closeDone_framebuf : (s.closeDone).framebuf = s.framebuf := by
  simp [State.closeDone]
@[simp] theorem State.closeDone_rx : (s.closeDone).rx = s.rx := by
  simp [State.closeDone]
@[simp] theorem State.closeDone_tx : (s.closeDone).tx = s.tx := by
  simp [State.closeDone]
@[simp] theorem State.closeDone_done : (s.closeDone).done = true := by
  simp [State.closeDone]
@[simp] theorem State.closeDone_statsValid : (s.closeDone).statsValid = (s.collect || s.statsValid) := by
  simp [State.closeDone]
@[simp] theorem State.closeDone_rdata : (s.closeDone).rdata = s.rdata := by
  simp [State.closeDone]
@[simp] theorem State.closeDone_pend : (s.closeDone).pend = s.pend := by
  simp [State.closeDone]
@[simp] theorem State.closeDone_build : (s.closeDone).build = s.build := by
  simp [State.closeDone]
@[simp] theorem State.closeDone_inputs : (s.closeDone).inputs = s.inputs := by
  simp [State.closeDone]
@[simp] theorem State.closeDone_codecOut : (s.closeDone).codecOut = s.codecOut := by
  simp [State.closeDone]
@[simp] theorem State.closeDone_fresh : (s.closeDone).fresh = s.fresh := by
  simp [State.closeDone]
@[simp] theorem State.closeDone_delivered : (s.closeDone).delivered = s.delivered := by
  simp [State.closeDone]

/-! ## writeStart (R172) -/

@[simp] theorem State.writeStart_cfgRole : (s.writeStart).cfgRole = s.cfgRole := by
  simp [State.writeStart]
@[simp] theorem State.writeStart_cfgTries : (s.writeStart).cfgTries = s.cfgTries := by
  simp [State.writeStart]
@[simp] theorem State.writeStart_cfgTimeout : (s.writeStart).cfgTimeout = s.cfgTimeout := by
  simp [State.writeStart]
@[simp] theorem State.writeStart_role : (s.writeStart).role = s.role := by
  simp [State.writeStart]
@[simp] theorem State.writeStart_numTries : (s.writeStart).numTries = s.numTries := by
  simp [State.writeStart]
@[simp] theorem State.writeStart_timeOut : (s.writeStart).timeOut = s.timeOut := by
  simp [State.writeStart]
@[simp] theorem State.writeStart_collect : (s.writeStart).collect = s.collect := by
  simp [State.writeStart]
@[simp] theorem State.writeStart_openf : (s.writeStart).openf = s.openf := by
  simp [State.writeStart]
@[simp] theorem State.writeStart_rcv : (s.writeStart).rcv = { s.rcv with fsm := .awaitFlag } := by
  simp [State.writeStart]
@[simp] theorem State.writeStart_op : (s.writeStart).op = .writeWait := by
  simp [State.writeStart]
@[simp] theorem State.writeStart_txbit : (s.writeStart).txbit = s.txbit := by
  simp [State.writeStart]
@[simp] theorem State.writeStart_rxbit : (s.writeStart).rxbit = s.rxbit := by
  simp [State.writeStart]
@[simp] theorem State.writeStart_retry : (s.writeStart).retry = 0 := by
  simp [State.writeStart]
@[simp] theorem State.writeStart_tmr : (s.writeStart).tmr = s.timeOut := by
  simp [State.writeStart]
@[simp] theorem State.writeStart_tarmed : (s.writeStart).tarmed = true := by
  simp [State.writeStart]
@[simp] theorem State.writeStart_body : (s.writeStart).body = s.body := by
  simp [State.writeStart]
@[simp] theorem State.writeStart_result : (s.writeStart).result = .none := by
  simp [State.writeStart]
@[simp] theorem State.writeStart_txlen : (s.writeStart).txlen = s.txlen := by
  simp [State.writeStart]
@[simp] theorem State.writeStart_rxlen : (s.writeStart).rxlen = s.rxlen := by
  simp [State.writeStart]
@[simp] theorem State.writeStart_framelen : (s.writeStart).framelen = (encInfo (cmdAddr s.role) s.txbit s.payload).length := by
  simp [State.writeStart]
@[simp] theorem State.writeStart_txbuf : (s.writeStart).txbuf = s.txbuf := by
  simp [State.writeStart]
@[simp] theorem State.writeStart_rxbuf : (s.writeStart).rxbuf = s.rxbuf := by
  simp [State.writeStart]
@[simp] theorem State.writeStart_framebuf : (s.writeStart).framebuf = s.framebuf.writeList 0 (encInfo (cmdAddr s.role) s.txbit s.payload) := by
  simp [State.writeStart]
@[simp] theorem State.writeStart_rx : (s.writeStart).rx = s.rx := by
  simp [State.writeStart]
@[simp] theorem State.writeStart_tx : (s.writeStart).tx = s.tx ++ encInfo (cmdAddr s.role) s.txbit s.payload := by
  simp [State.writeStart]
@[simp] theorem State.writeStart_done : (s.writeStart).done = s.done := by
  simp [State.writeStart]
@[simp] theorem State.writeStart_statsValid : (s.writeStart).statsValid = s.statsValid := by
  simp [State.writeStart]
@[simp] theorem State.writeStart_rdata : (s.writeStart).rdata = s.rdata := by
  simp [State.writeStart]
@[simp] theorem State.writeStart_pend : (s.writeStart).pend = s.pend := by
  simp [State.writeStart]
@[simp] theorem State.writeStart_build : (s.writeStart).build = s.build := by
  simp [State.writeStart]
@[simp] theorem State.writeStart_inputs : (s.writeStart).inputs = s.inputs := by
  simp [State.writeStart]
@[simp] theorem State.writeStart_codecOut : (s.writeStart).codecOut = s.codecOut := by
  simp [State.writeStart]
@[simp] theorem State.writeStart_fresh : (s.writeStart).fresh = s.fresh := by
  simp [State.writeStart]
@[simp] theorem State.writeStart_delivered : (s.writeStart).delivered = s.delivered := by
  simp [State.writeStart]

/-! ## writeAcknowledged (R174) -/

@[simp] theorem State.writeAcknowledged_cfgRole : (s.writeAcknowledged).cfgRole = s.cfgRole := (rfl)
@[simp] theorem State.writeAcknowledged_cfgTries : (s.writeAcknowledged).cfgTries = s.cfgTries := (rfl)
@[simp] theorem State.writeAcknowledged_cfgTimeout : (s.writeAcknowledged).cfgTimeout = s.cfgTimeout := (rfl)
@[simp] theorem State.writeAcknowledged_role : (s.writeAcknowledged).role = s.role := (rfl)
@[simp] theorem State.writeAcknowledged_numTries : (s.writeAcknowledged).numTries = s.numTries := (rfl)
@[simp] theorem State.writeAcknowledged_timeOut : (s.writeAcknowledged).timeOut = s.timeOut := (rfl)
@[simp] theorem State.writeAcknowledged_collect : (s.writeAcknowledged).collect = s.collect := (rfl)
@[simp] theorem State.writeAcknowledged_openf : (s.writeAcknowledged).openf = s.openf := (rfl)
@[simp] theorem State.writeAcknowledged_rcv : (s.writeAcknowledged).rcv = s.rcv := (rfl)
@[simp] theorem State.writeAcknowledged_op : (s.writeAcknowledged).op = .idle := (rfl)
@[simp] theorem State.writeAcknowledged_txbit : (s.writeAcknowledged).txbit = !s.txbit := (rfl)
@[simp] theorem State.writeAcknowledged_rxbit : (s.writeAcknowledged).rxbit = s.rxbit := (rfl)
@[simp] theorem State.writeAcknowledged_retry : (s.writeAcknowledged).retry = s.retry := (rfl)
@[simp] theorem State.writeAcknowledged_tmr : (s.writeAcknowledged).tmr = s.tmr := (rfl)
@[simp] theorem State.writeAcknowledged_tarmed : (s.writeAcknowledged).tarmed = false := (rfl)
@[simp] theorem State.writeAcknowledged_body : (s.writeAcknowledged).body = s.body := (rfl)
@[simp] theorem State.writeAcknowledged_result : (s.writeAcknowledged).result = .ok := (rfl)
@[simp] theorem State.writeAcknowledged_txlen : (s.writeAcknowledged).txlen = s.txlen := (rfl)
@[simp] theorem State.writeAcknowledged_rxlen : (s.writeAcknowledged).rxlen = s.rxlen := (rfl)
@[simp] theorem State.writeAcknowledged_framelen : (s.writeAcknowledged).framelen = s.framelen := (rfl)
@[simp] theorem State.writeAcknowledged_stat : (s.writeAcknowledged).stat = { s.stat with framesSent := s.bumped s.stat.framesSent 1 } := (rfl)
@[simp] theorem State.writeAcknowledged_txbuf : (s.writeAcknowledged).txbuf = s.txbuf := (rfl)
@[simp] theorem State.writeAcknowledged_rxbuf : (s.writeAcknowledged).rxbuf = s.rxbuf := (rfl)
@[simp] theorem State.writeAcknowledged_framebuf : (s.writeAcknowledged).framebuf = s.framebuf := (rfl)
@[simp] theorem State.writeAcknowledged_rx : (s.writeAcknowledged).rx = s.rx := (rfl)
@[simp] theorem State.writeAcknowledged_tx : (s.writeAcknowledged).tx = s.tx := (rfl)
@[simp] theorem State.writeAcknowledged_done : (s.writeAcknowledged).done = true := (rfl)
@[simp] theorem State.writeAcknowledged_statsValid : (s.writeAcknowledged).statsValid = s.statsValid := (rfl)
@[simp] theorem State.writeAcknowledged_rdata : (s.writeAcknowledged).rdata = s.rdata := (rfl)
@[simp] theorem State.writeAcknowledged_pend : (s.writeAcknowledged).pend = s.pend := (rfl)
@[simp] theorem State.writeAcknowledged_build : (s.writeAcknowledged).build = s.build := (rfl)
@[simp] theorem State.writeAcknowledged_inputs : (s.writeAcknowledged).inputs = s.inputs := (rfl)
@[simp] theorem State.writeAcknowledged_codecOut : (s.writeAcknowledged).codecOut = s.codecOut := (rfl)
@[simp] theorem State.writeAcknowledged_fresh : (s.writeAcknowledged).fresh = s.fresh := (rfl)
@[simp] theorem State.writeAcknowledged_delivered : (s.writeAcknowledged).delivered = s.delivered := (rfl)

/-! ## resend (R175) -/

@[simp] theorem State.resend_cfgRole : (s.resend).cfgRole = s.cfgRole := (rfl)
@[simp] theorem State.resend_cfgTries : (s.resend).cfgTries = s.cfgTries := (rfl)
@[simp] theorem State.resend_cfgTimeout : (s.resend).cfgTimeout = s.cfgTimeout := (rfl)
@[simp] theorem State.resend_role : (s.resend).role = s.role := (rfl)
@[simp] theorem State.resend_numTries : (s.resend).numTries = s.numTries := (rfl)
@[simp] theorem State.resend_timeOut : (s.resend).timeOut = s.timeOut := (rfl)
@[simp] theorem State.resend_collect : (s.resend).collect = s.collect := (rfl)
@[simp] theorem State.resend_openf : (s.resend).openf = s.openf := (rfl)
@[simp] theorem State.resend_rcv : (s.resend).rcv = { s.rcv with fsm := .awaitFlag } := (rfl)
@[simp] theorem State.resend_op : (s.resend).op = s.op := (rfl)
@[simp] theorem State.resend_txbit : (s.resend).txbit = s.txbit := (rfl)
@[simp] theorem State.resend_rxbit : (s.resend).rxbit = s.rxbit := (rfl)
@[simp] theorem State.resend_retry : (s.resend).retry = s.retry := (rfl)
@[simp] theorem State.resend_tmr : (s.resend).tmr = s.timeOut := (rfl)
@[simp] theorem State.resend_tarmed : (s.resend).tarmed = true := (rfl)
@[simp] theorem State.resend_body : (s.resend).body = s.body := (rfl)
@[simp] theorem State.resend_result : (s.resend).result = s.result := (rfl)
@[simp] theorem State.resend_txlen : (s.resend).txlen = s.txlen := (rfl)
@[simp] theorem State.resend_rxlen : (s.resend).rxlen = s.rxlen := (rfl)
@[simp] theorem State.resend_framelen : (s.resend).framelen = s.framelen := (rfl)
@[simp] theorem State.resend_stat : (s.resend).stat = { s.stat with bytesSent := s.bumped s.stat.bytesSent s.heldFrame.length } := (rfl)
@[simp] theorem State.resend_txbuf : (s.resend).txbuf = s.txbuf := (rfl)
@[simp] theorem State.resend_rxbuf : (s.resend).rxbuf = s.rxbuf := (rfl)
@[simp] theorem State.resend_framebuf : (s.resend).framebuf = s.framebuf := (rfl)
@[simp] theorem State.resend_rx : (s.resend).rx = s.rx := (rfl)
@[simp] theorem State.resend_tx : (s.resend).tx = s.tx ++ s.heldFrame := (rfl)
@[simp] theorem State.resend_done : (s.resend).done = s.done := (rfl)
@[simp] theorem State.resend_statsValid : (s.resend).statsValid = s.statsValid := (rfl)
@[simp] theorem State.resend_rdata : (s.resend).rdata = s.rdata := (rfl)
@[simp] theorem State.resend_pend : (s.resend).pend = s.pend := (rfl)
@[simp] theorem State.resend_build : (s.resend).build = s.build := (rfl)
@[simp] theorem State.resend_inputs : (s.resend).inputs = s.inputs := (rfl)
@[simp] theorem State.resend_codecOut : (s.resend).codecOut = s.codecOut := (rfl)
@[simp] theorem State.resend_fresh : (s.resend).fresh = s.fresh := (rfl)
@[simp] theorem State.resend_delivered : (s.resend).delivered = s.delivered := (rfl)

/-! ## readStart (R179) -/

@[simp] theorem State.readStart_cfgRole : (s.readStart).cfgRole = s.cfgRole := (rfl)
@[simp] theorem State.readStart_cfgTries : (s.readStart).cfgTries = s.cfgTries := (rfl)
@[simp] theorem State.readStart_cfgTimeout : (s.readStart).cfgTimeout = s.cfgTimeout := (rfl)
@[simp] theorem State.readStart_role : (s.readStart).role = s.role := (rfl)
@[simp] theorem State.readStart_numTries : (s.readStart).numTries = s.numTries := (rfl)
@[simp] theorem State.readStart_timeOut : (s.readStart).timeOut = s.timeOut := (rfl)
@[simp] theorem State.readStart_collect : (s.readStart).collect = s.collect := (rfl)
@[simp] theorem State.readStart_openf : (s.readStart).openf = s.openf := (rfl)
@[simp] theorem State.readStart_rcv : (s.readStart).rcv = { s.rcv with fsm := .awaitFlag } := (rfl)
@[simp] theorem State.readStart_op : (s.readStart).op = .readHeader := (rfl)
@[simp] theorem State.readStart_txbit : (s.readStart).txbit = s.txbit := (rfl)
@[simp] theorem State.readStart_rxbit : (s.readStart).rxbit = s.rxbit := (rfl)
@[simp] theorem State.readStart_retry : (s.readStart).retry = s.retry := (rfl)
@[simp] theorem State.readStart_tmr : (s.readStart).tmr = s.tmr := (rfl)
@[simp] theorem State.readStart_tarmed : (s.readStart).tarmed = s.tarmed := (rfl)
@[simp] theorem State.readStart_body : (s.readStart).body = s.body := (rfl)
@[simp] theorem State.readStart_result : (s.readStart).result = .none := (rfl)
@[simp] theorem State.readStart_txlen : (s.readStart).txlen = s.txlen := (rfl)
@[simp] theorem State.readStart_rxlen : (s.readStart).rxlen = s.rxlen := (rfl)
@[simp] theorem State.readStart_framelen : (s.readStart).framelen = s.framelen := (rfl)
@[simp] theorem State.readStart_stat : (s.readStart).stat = s.stat := (rfl)
@[simp] theorem State.readStart_txbuf : (s.readStart).txbuf = s.txbuf := (rfl)
@[simp] theorem State.readStart_rxbuf : (s.readStart).rxbuf = s.rxbuf := (rfl)
@[simp] theorem State.readStart_framebuf : (s.readStart).framebuf = s.framebuf := (rfl)
@[simp] theorem State.readStart_rx : (s.readStart).rx = s.rx := (rfl)
@[simp] theorem State.readStart_tx : (s.readStart).tx = s.tx := (rfl)
@[simp] theorem State.readStart_done : (s.readStart).done = s.done := (rfl)
@[simp] theorem State.readStart_statsValid : (s.readStart).statsValid = s.statsValid := (rfl)
@[simp] theorem State.readStart_rdata : (s.readStart).rdata = s.rdata := (rfl)
@[simp] theorem State.readStart_pend : (s.readStart).pend = s.pend := (rfl)
@[simp] theorem State.readStart_build : (s.readStart).build = s.build := (rfl)
@[simp] theorem State.readStart_inputs : (s.readStart).inputs = s.inputs := (rfl)
@[simp] theorem State.readStart_codecOut : (s.readStart).codecOut = s.codecOut := (rfl)
@[simp] theorem State.readStart_fresh : (s.readStart).fresh = s.fresh := (rfl)
@[simp] theorem State.readStart_delivered : (s.readStart).delivered = false := (rfl)

/-! ## readAccepted (R181) -/

@[simp] theorem State.readAccepted_cfgRole : (s.readAccepted).cfgRole = s.cfgRole := (rfl)
@[simp] theorem State.readAccepted_cfgTries : (s.readAccepted).cfgTries = s.cfgTries := (rfl)
@[simp] theorem State.readAccepted_cfgTimeout : (s.readAccepted).cfgTimeout = s.cfgTimeout := (rfl)
@[simp] theorem State.readAccepted_role : (s.readAccepted).role = s.role := (rfl)
@[simp] theorem State.readAccepted_numTries : (s.readAccepted).numTries = s.numTries := (rfl)
@[simp] theorem State.readAccepted_timeOut : (s.readAccepted).timeOut = s.timeOut := (rfl)
@[simp] theorem State.readAccepted_collect : (s.readAccepted).collect = s.collect := (rfl)
@[simp] theorem State.readAccepted_openf : (s.readAccepted).openf = s.openf := (rfl)
@[simp] theorem State.readAccepted_rcv : (s.readAccepted).rcv = s.rcv := (rfl)
@[simp] theorem State.readAccepted_op : (s.readAccepted).op = .idle := (rfl)
@[simp] theorem State.readAccepted_txbit : (s.readAccepted).txbit = s.txbit := (rfl)
@[simp] theorem State.readAccepted_rxbit : (s.readAccepted).rxbit = !s.rxbit := (rfl)
@[simp] theorem State.readAccepted_retry : (s.readAccepted).retry = s.retry := (rfl)
@[simp] theorem State.readAccepted_tmr : (s.readAccepted).tmr = s.tmr := (rfl)
@[simp] theorem State.readAccepted_tarmed : (s.readAccepted).tarmed = false := (rfl)
@[simp] theorem State.readAccepted_body : (s.readAccepted).body = s.body := (rfl)
@[simp] theorem State.readAccepted_result : (s.readAccepted).result = .ok := (rfl)
@[simp] theorem State.readAccepted_txlen : (s.readAccepted).txlen = s.txlen := (rfl)
@[simp] theorem State.readAccepted_rxlen : (s.readAccepted).rxlen = s.body.rxcnt - 1 := (rfl)
@[simp] theorem State.readAccepted_framelen : (s.readAccepted).framelen = s.framelen := (rfl)
@[simp] theorem State.readAccepted_txbuf : (s.readAccepted).txbuf = s.txbuf := (rfl)
@[simp] theorem State.readAccepted_rxbuf : (s.readAccepted).rxbuf = s.rxbuf := (rfl)
@[simp] theorem State.readAccepted_framebuf : (s.readAccepted).framebuf = s.framebuf := (rfl)
@[simp] theorem State.readAccepted_rx : (s.readAccepted).rx = s.rx := (rfl)
@[simp] theorem State.readAccepted_tx : (s.readAccepted).tx = s.tx ++ encCtrl (replyAddr s.role) (rrCode s.rxbit) := (rfl)
@[simp] theorem State.readAccepted_done : (s.readAccepted).done = true := (rfl)
@[simp] theorem State.readAccepted_statsValid : (s.readAccepted).statsValid = s.statsValid := (rfl)
@[simp] theorem State.readAccepted_rdata : (s.readAccepted).rdata = s.rdata := (rfl)
@[simp] theorem State.readAccepted_pend : (s.readAccepted).pend = s.pend := (rfl)
@[simp] theorem State.readAccepted_build : (s.readAccepted).build = s.build := (rfl)
@[simp] theorem State.readAccepted_inputs : (s.readAccepted).inputs = s.inputs := (rfl)
@[simp] theorem State.readAccepted_codecOut : (s.readAccepted).codecOut = s.codecOut := (rfl)
@[simp] theorem State.readAccepted_fresh : (s.readAccepted).fresh = s.fresh := (rfl)
@[simp] theorem State.readAccepted_delivered : (s.readAccepted).delivered = true := (rfl)

/-! ## readRejected (R182) -/

@[simp] theorem State.readRejected_cfgRole : (s.readRejected).cfgRole = s.cfgRole := (rfl)
@[simp] theorem State.readRejected_cfgTries : (s.readRejected).cfgTries = s.cfgTries := (rfl)
@[simp] theorem State.readRejected_cfgTimeout : (s.readRejected).cfgTimeout = s.cfgTimeout := (rfl)
@[simp] theorem State.readRejected_role : (s.readRejected).role = s.role := (rfl)
@[simp] theorem State.readRejected_numTries : (s.readRejected).numTries = s.numTries := (rfl)
@[simp] theorem State.readRejected_timeOut : (s.readRejected).timeOut = s.timeOut := (rfl)
@[simp] theorem State.readRejected_collect : (s.readRejected).collect = s.collect := (rfl)
@[simp] theorem State.readRejected_openf : (s.readRejected).openf = s.openf := (rfl)
@[simp] theorem State.readRejected_rcv : (s.readRejected).rcv = { s.rcv with fsm := .awaitFlag } := (rfl)
@[simp] theorem State.readRejected_op : (s.readRejected).op = .readHeader := (rfl)
@[simp] theorem State.readRejected_txbit : (s.readRejected).txbit = s.txbit := (rfl)
@[simp] theorem State.readRejected_rxbit : (s.readRejected).rxbit = s.rxbit := (rfl)
@[simp] theorem State.readRejected_retry : (s.readRejected).retry = s.retry := (rfl)
@[simp] theorem State.readRejected_tmr : (s.readRejected).tmr = s.tmr := (rfl)
@[simp] theorem State.readRejected_tarmed : (s.readRejected).tarmed = s.tarmed := (rfl)
@[simp] theorem State.readRejected_body : (s.readRejected).body = s.body := (rfl)
@[simp] theorem State.readRejected_result : (s.readRejected).result = s.result := (rfl)
@[simp] theorem State.readRejected_txlen : (s.readRejected).txlen = s.txlen := (rfl)
@[simp] theorem State.readRejected_rxlen : (s.readRejected).rxlen = s.rxlen := (rfl)
@[simp] theorem State.readRejected_framelen : (s.readRejected).framelen = s.framelen := (rfl)
@[simp] theorem State.readRejected_txbuf : (s.readRejected).txbuf = s.txbuf := (rfl)
@[simp] theorem State.readRejected_rxbuf : (s.readRejected).rxbuf = s.rxbuf := (rfl)
@[simp] theorem State.readRejected_framebuf : (s.readRejected).framebuf = s.framebuf := (rfl)
@[simp] theorem State.readRejected_rx : (s.readRejected).rx = s.rx := (rfl)
@[simp] theorem State.readRejected_tx : (s.readRejected).tx = s.tx ++ encCtrl (replyAddr s.role) (rejCode s.rxbit) := (rfl)
@[simp] theorem State.readRejected_done : (s.readRejected).done = s.done := (rfl)
@[simp] theorem State.readRejected_statsValid : (s.readRejected).statsValid = s.statsValid := (rfl)
@[simp] theorem State.readRejected_rdata : (s.readRejected).rdata = s.rdata := (rfl)
@[simp] theorem State.readRejected_pend : (s.readRejected).pend = s.pend := (rfl)
@[simp] theorem State.readRejected_build : (s.readRejected).build = s.build := (rfl)
@[simp] theorem State.readRejected_inputs : (s.readRejected).inputs = s.inputs := (rfl)
@[simp] theorem State.readRejected_codecOut : (s.readRejected).codecOut = s.codecOut := (rfl)
@[simp] theorem State.readRejected_fresh : (s.readRejected).fresh = s.fresh := (rfl)
@[simp] theorem State.readRejected_delivered : (s.readRejected).delivered = s.delivered := (rfl)

/-- The counters an update leaves alone are those its record does not name; `bumped` looks only at the build parameters. -/
theorem State.bumped_lt (c k : Nat) : s.bumped c k < 2 ^ s.build.cntW := Nat.mod_lt _ (Nat.two_pow_pos _)

end Sys2Proof.Machine
end

