-- ==== Sys2Proof/Laws/Step.lean ====
section
/-! SUPPORT. What one step can do, said once: the commands as one function, the byte event as State.rxByte, and the inversion of `step` (Moves), from which an invariant follows by one small case a move. -/

namespace Sys2Proof.Machine

open Sys2Proof.Config

/-- The command that a word in CMD runs, as a function of the state (R100). -/
def State.command (w : Nat) (s : State) : State :=
  if s.busy then s
  else if w % 8 = 1 then (if s.openRefused then s.finish .refused else s.openStart)
  else if w % 8 = 2 then (if s.writeRefused then s.finish .refused else s.writeStart)
  else if w % 8 = 3 then (if s.readRefused then s.finish .refused else s.readStart)
  else if w % 8 = 4 then (if s.closeRefused then s.finish .refused else s.closeStart (w / 8 % 2 == 1))
  else s.finish .refused

theorem exec_decodeCommand (w : Nat) (s : State) : exec (decodeCommand w) s = .next (s.command w) := by
  unfold decodeCommand State.command
  cases hb : s.busy <;> split_ifs <;>
    simp_all [exec, execOpen, execWrite, execRead, execClose, execReserved0, execReserved5, execReserved6,
      execReserved7, State.reservedCommand]

/-- On a transition to Done the step runs the instruction that CTRL holds (R136); that is State.actOnCtrl. -/
theorem exec_decodeControl (t : State) :
    (match decodeControl t.rcv.ctrl with
      | .ok i => exec i t
      | .error _ => .next t.startRun) = .next t.actOnCtrl := by
  unfold decodeControl State.actOnCtrl
  split_ifs <;> rfl

/-- The byte event of a step is State.rxByte on the state whose RX stream has lost the byte (R61, R228). -/
theorem takeEvent_rxByte (x : Byte) (s : State) (h : s.op ≠ .idle) :
    s.takeEvent (.rxByte x) =
      .next (State.rxByte x { s with pend := { s.pend with rxValid := false }, rx := s.rx.tail }) := by
  unfold State.takeEvent State.rxByte
  simp only [State.consume, State.eventInstr, State.countReceived_op, h, if_false]
  by_cases hb : s.op = .readBody
  · simp only [hb, if_true, exec, execDecBody, State.completeByte, State.countReceived_op, State.bodyByte]
    split <;> rfl
  · simp only [hb, if_false, exec, execFsmStep, State.completeByte, State.countReceived_op, State.fsmByte]
    split
    · exact exec_decodeControl _
    · rfl

/-- What one step can do, from a state whose pulses have been dropped. -/
inductive State.Moves (s : State) : State → Prop where
  | reset (h : s.pend.rst = true) : s.Moves (State.onReset { s with pend := { s.pend with rst := false } })
  | xportErr (h : s.pend.xportErr = true) :
      s.Moves (State.onXportErr { s with pend := { s.pend with xportErr := false } })
  | rxByte (x : Byte) (rest : List Byte) (h : s.op ≠ .idle) (hrx : s.rx = x :: rest) :
      s.Moves (State.rxByte x { s with pend := { s.pend with rxValid := false }, rx := rest })
  | timeout (h : s.tarmed = true) (h0 : s.tmr = 0) : s.Moves s.onTimeout
  | command (w : Nat) (h : s.pend.cmd = some w) : s.Moves (State.command w { s with pend := { s.pend with cmd := none } })
  | wait (h : s.inputs = []) : s.Moves s
  | line (bs : List Byte) (m : Input) (rest : List Input) (h : s.inputs = m :: rest) :
      s.Moves (State.receive bs { s with inputs := rest, pend := Lines.clear })
  | input (m : Input) (rest : List Input) (h : s.inputs = m :: rest) (t : State)
      (ht : State.applyInput m { s with inputs := rest, pend := Lines.clear } = .next t) : s.Moves t

/-- A decoded frame is one of the two frame rows (R80). -/
theorem decodeFrame_shape {bs rest : List Byte} {i : Instr} (h : decodeFrame bs = .ok (i, rest)) :
    (∃ a c, i = .ctrlFrame a c) ∨ ∃ a b p, i = .infoFrame a b p := by
  unfold decodeFrame at h
  split at h
  · split_ifs at h
    · split at h
      · cases h
      · split at h
        · cases h
        · cases h; exact .inr ⟨_, _, _, rfl⟩
    · split at h
      · cases h
      · split_ifs at h
        cases h; exact .inl ⟨_, _, rfl⟩
  · cases h

/-- Inversion of `step`: from the state with its pulses dropped, one of the moves. -/
theorem step_moves {s t : State} (h : step s = .next t) : s.dropPulses.Moves t := by
  unfold step at h
  generalize s.dropPulses = p at h ⊢
  simp only at h
  split at h
  · next e he =>
    unfold State.readyEvent at he
    split at he
    · next h1 => cases he; cases h; exact .reset h1
    split at he
    · next h2 => cases he; cases h; exact .xportErr h2
    split at he
    · next x rest hv hrx =>
      cases he
      have hop : p.op ≠ .idle := by
        intro hc
        simp [State.rxReady, State.busy, hc] at hv
      rw [takeEvent_rxByte x p hop] at h
      cases h
      simpa [hrx] using State.Moves.rxByte x rest hop hrx
    · split at he
      · next h3 =>
        cases he; cases h
        simp [State.timeoutDue] at h3
        exact .timeout h3.1 h3.2
      · split at he
        · next w hw =>
          cases he
          simp only [State.takeEvent, State.eventInstr, exec_decodeCommand] at h
          cases h
          exact .command w hw
        · cases he
  · next he =>
    unfold State.nextInput at h
    split at h
    · next hi => cases h; exact .wait hi
    · next m rest hi =>
      simp only at h
      split at h
      · split at h
        · next i hd =>
          obtain ⟨a, c, rfl⟩ | ⟨a, b, q, rfl⟩ := decodeFrame_shape hd
          · cases h; exact .line _ _ rest hi
          · cases h; exact .line _ _ rest hi
        · cases h; exact .line _ _ rest hi
      all_goals exact .input _ rest hi t h

/-- A property that each byte event keeps, and that looks at neither the RX stream nor the pulses, is kept while the engine
takes bytes. -/
theorem takeBytes_keeps {P : State → Prop} (hrx : ∀ s r, P s → P { s with rx := r })
    (hdrop : ∀ s : State, P s → P s.dropPulses) (hbyte : ∀ s x, P s → s.op ≠ .idle → P (State.rxByte x s)) :
    ∀ n s, P s → P (State.takeBytes n s) := by
  intro n
  induction n with
  | zero => intro s h; exact h
  | succ n ih =>
    intro s h
    unfold State.takeBytes
    split
    · exact h
    · next hop =>
      split
      · exact h
      · next x rest _ => exact ih _ (hbyte _ x (hdrop _ (hrx s rest h)) (by simpa using hop))

/-- The invariant rule: a property that every move keeps is kept by every step. -/
theorem step_keeps {P : State → Prop} (hdrop : ∀ s : State, P s → P s.dropPulses)
    (hrx : ∀ s r, P s → P { s with rx := r })
    (hnext : ∀ s i, P s → P { s with inputs := i, pend := Lines.clear })
    (hrst : ∀ s, P s → P (State.onReset { s with pend := { s.pend with rst := false } }))
    (hxport : ∀ s, P s → P (State.onXportErr { s with pend := { s.pend with xportErr := false } }))
    (hvalid : ∀ s, P s → P { s with pend := { s.pend with rxValid := false } })
    (hbyte : ∀ s x, P s → s.op ≠ .idle → P (State.rxByte x s))
    (htime : ∀ s, P s → s.tarmed = true → s.tmr = 0 → P s.onTimeout)
    (hcmd : ∀ s w, P s → s.pend.cmd = some w → P (State.command w { s with pend := { s.pend with cmd := none } }))
    (hinput : ∀ s m t, P s → s.pend = Lines.clear → State.applyInput m s = .next t → (∀ bs, m ≠ .line bs) → P t)
    {s t : State} (h : step s = .next t) (hs : P s) : P t := by
  have hrec : ∀ s bs, P s → P (State.receive bs s) := fun s bs h =>
    takeBytes_keeps hrx hdrop hbyte _ _ (hrx s _ h)
  have hp := hdrop s hs
  generalize hq : s.dropPulses = p at hp
  cases hq ▸ step_moves h with
  | reset _ => exact hrst p hp
  | xportErr _ => exact hxport p hp
  | rxByte x rest hop _ => exact hbyte _ x (hrx _ rest (hvalid p hp)) hop
  | timeout h1 h2 => exact htime p hp h1 h2
  | command w hw => exact hcmd p w hp hw
  | wait _ => exact hp
  | line bs m rest _ => exact hrec _ bs (hnext p rest hp)
  | input m rest _ t ht =>
    by_cases hm : ∃ bs, m = .line bs
    · obtain ⟨bs, rfl⟩ := hm
      cases ht
      exact hrec _ bs (hnext p rest hp)
    · exact hinput _ m t (hnext p rest hp) rfl ht (fun bs hb => hm ⟨bs, hb⟩)

end Sys2Proof.Machine
end

