-- ==== Sys2Proof/Laws/Moves.lean ====
section
/-! SUPPORT. What a command word, a Timeout and an event's instruction can do, said once, and what the next step takes: an invariant then needs one small case a row. -/

namespace Sys2Proof.Machine

open Sys2Proof.Config

/-- What a word in CMD can do (R101, R151, R152, R156, R157, R171, R172, R178, R179, R237). -/
inductive State.CommandMoves (s : State) : State → Prop where
  | busy (hop : s.op ≠ .idle) : s.CommandMoves s
  | refused (hop : s.op = .idle) : s.CommandMoves (s.finish .refused)
  | opens (hop : s.op = .idle) (hf : s.openf = false) (hn : s.cfgTries ≠ 0) (ht : s.cfgTimeout ≠ 0) :
      s.CommandMoves s.openStart
  | writes (hop : s.op = .idle) (hf : s.openf = true) (hl : s.txlen ≤ s.build.maxPayload) :
      s.CommandMoves s.writeStart
  | reads (hop : s.op = .idle) (hf : s.openf = true) : s.CommandMoves s.readStart
  | closes (hop : s.op = .idle) (hf : s.openf = true) (c : Bool) : s.CommandMoves (s.closeStart c)

theorem command_moves (w : Nat) (s : State) : s.CommandMoves (s.command w) := by
  unfold State.command
  by_cases hop : s.op = .idle
  · rw [if_neg (by simp [State.busy, hop])]
    split_ifs with h1 h2 h3 h4 h5 h6 h7 h8
    · exact .refused hop
    · simp [State.openRefused] at h2; exact .opens hop h2.1.1 h2.1.2 h2.2
    · exact .refused hop
    · simp [State.writeRefused] at h4; exact .writes hop h4.1 h4.2
    · exact .refused hop
    · simp [State.readRefused] at h6; exact .reads hop h6
    · exact .refused hop
    · simp [State.closeRefused] at h8; exact .closes hop h8 _
    · exact .refused hop
  · rw [if_pos (by simpa [State.busy] using hop)]; exact .busy hop

/-- A Timeout is counted, and consumes a retry (R188, R205). -/
def State.timedOut (s : State) : State := s.expire.countTimeout.bumpRetry

/-- What a Timeout can do while TARMED is 1 (R154, R159, R176, R188). -/
inductive State.TimeoutMoves (s : State) : State → Prop where
  | unreached (hop : s.op.timed = false) : s.TimeoutMoves s.expire
  | openFails (hop : s.op = .openWait) (hx : s.timedOut.exhausted = true) :
      s.TimeoutMoves (s.timedOut.finish .retriesExhausted)
  | writeFails (hop : s.op = .writeWait) (hx : s.timedOut.exhausted = true) :
      s.TimeoutMoves (s.timedOut.finish .retriesExhausted)
  | closeFails (hop : s.op = .closeWait) (hx : s.timedOut.exhausted = true) :
      s.TimeoutMoves ((State.reportStats { s.timedOut with openf := false }).finish .retriesExhausted)
  | openRetries (hop : s.op = .openWait) (hx : s.timedOut.exhausted = false) :
      s.TimeoutMoves s.timedOut.sendSet.awaitAnswer
  | writeRetries (hop : s.op = .writeWait) (hx : s.timedOut.exhausted = false) : s.TimeoutMoves s.timedOut.resend
  | closeRetries (hop : s.op = .closeWait) (hx : s.timedOut.exhausted = false) :
      s.TimeoutMoves s.timedOut.sendDisc.awaitAnswer

theorem onTimeout_moves {s : State} (h : s.tarmed = true) : s.TimeoutMoves s.onTimeout := by
  have hb : ∀ {a b : State}, s.timedOut.exhausted = true → s.TimeoutMoves a →
      s.TimeoutMoves (if s.timedOut.exhausted then a else b) := fun hx ha => by rw [if_pos hx]; exact ha
  have hc : ∀ {a b : State}, s.timedOut.exhausted = false → s.TimeoutMoves b →
      s.TimeoutMoves (if s.timedOut.exhausted then a else b) := fun hx ha => by
    rw [if_neg (by simp [hx])]; exact ha
  unfold State.onTimeout
  rw [if_pos h]
  cases hop : s.op <;> cases hx : s.timedOut.exhausted
  · exact .unreached (by simp [hop, Op.timed])
  · exact .unreached (by simp [hop, Op.timed])
  · exact hc hx (.openRetries hop hx)
  · exact hb hx (.openFails hop hx)
  · exact hc hx (.writeRetries hop hx)
  · exact hb hx (.writeFails hop hx)
  · exact .unreached (by simp [hop, Op.timed])
  · exact .unreached (by simp [hop, Op.timed])
  · exact .unreached (by simp [hop, Op.timed])
  · exact .unreached (by simp [hop, Op.timed])
  · exact hc hx (.closeRetries hop hx)
  · exact hb hx (.closeFails hop hx)

/-- With no event ready the environment moves (R228). -/
theorem readyEvent_of_quiet {s : State} (h : s.Quiet) : s.dropPulses.readyEvent = none := by
  have hb : ¬(s.pend.rxValid = true ∧ s.op ≠ .idle ∧ s.rx ≠ []) := fun hc => by
    rcases h.noByte with h | h | h
    · simp [h] at hc
    · exact hc.2.1 h
    · exact hc.2.2 h
  have ht : s.dropPulses.timeoutDue = false := by
    rcases h.noTimeout with h | h <;> simp [State.timeoutDue, h]
  unfold State.readyEvent
  simp only [State.dropPulses_pend, h.noReset, h.noError, h.noCommand, ht, Bool.false_eq_true, if_false]
  split
  · next x rest hv hrx =>
    simp [State.rxReady, State.busy] at hv
    exact absurd ⟨hv.1, hv.2, by simpa using fun hn => by simp [hn] at hrx⟩ hb
  · rfl

/-- An event other than RxByte runs its instruction and nothing more. -/
theorem takeEvent_other (s : State) {e : Event} (he : ∀ x, e ≠ .rxByte x) :
    s.takeEvent e = exec ((s.consume e).eventInstr e) (s.consume e) := by
  unfold State.takeEvent
  cases e with
  | rxByte x => exact absurd rfl (he x)
  | reset => simp only; split <;> simp_all
  | xportErr => simp only; split <;> simp_all
  | timeout => simp only; split <;> simp_all
  | cmd w => simp only; split <;> simp_all

/-- When a byte is the event taken next, the step is RxByte on the state that has taken it off the stream (R61). -/
theorem step_of_offers {s : State} {x : Byte} {rest : List Byte} (h : s.Offers x rest) :
    step s = .next (State.rxByte x { s with
      done := false, statsValid := false, pend := { s.pend with rxValid := false }, rx := rest }) := by
  have hb : (s.op != .idle) = true := by simpa using h.taking
  have : s.dropPulses.readyEvent = some (.rxByte x) := by
    simp [State.readyEvent, h.noReset, h.noError, h.offered, h.first, State.rxReady, State.busy, hb]
  unfold step
  simp only [this]
  rw [takeEvent_rxByte _ _ (by simpa using h.taking)]
  simp [State.dropPulses, h.first]

/-- With no event ready and a move other than a whole frame, the step is that move. -/
theorem step_of_quiet {s : State} {m : Input} {rest : List Input} (h : s.Quiet) (hi : s.inputs = m :: rest)
    (hm : ∀ bs, m ≠ .line bs) : step s = State.applyInput m (s.afterMove rest) := by
  unfold step
  simp only [readyEvent_of_quiet h, State.nextInput, State.dropPulses_inputs, hi]
  cases m with
  | line bs => exact absurd rfl (hm bs)
  | _ => rfl

/-! ## What the host's access to a buffer can do (R64, R65; logs 6, 8) -/

theorem readTxbuf_cases (i : Nat) (s : State) :
    ∃ v n, s.readTxbuf i = { s with rdata := v, fresh := n } ∧
      (i < s.build.maxPayload → n = s.fresh ∧ ∀ b, s.txbuf.read i = some b → v = b.toNat) := by
  unfold State.readTxbuf
  split
  · exact ⟨_, s.fresh, rfl, fun _ => ⟨rfl, fun b hb => by simp [Memory.readAny, hb]⟩⟩
  · next h => exact ⟨_, _, rfl, fun hc => absurd hc h⟩

theorem readRxbuf_cases (i : Nat) (s : State) :
    ∃ v n, s.readRxbuf i = { s with rdata := v, fresh := n } ∧
      (s.delivered = true → i ≤ s.build.maxPayload → n = s.fresh ∧ ∀ b, s.rxbuf.read i = some b → v = b.toNat) := by
  unfold State.readRxbuf
  split
  · exact ⟨_, s.fresh, rfl, fun _ _ => ⟨rfl, fun b hb => by simp [Memory.readAny, hb]⟩⟩
  · next h => exact ⟨_, _, rfl, fun h1 h2 => absurd (by simp [h1, h2]) h⟩

/-- A host write of TXBUF changes one byte inside the buffer, or none, and at an index TXBUF has, that one. -/
theorem writeTxbuf_cases (i : Nat) (b : Byte) (s : State) :
    ∃ m n, s.writeTxbuf i b = { s with txbuf := m, fresh := n } ∧
      (m = s.txbuf ∨ ∃ k, k < s.build.maxPayload ∧ m = s.txbuf.write k b) ∧
      (i < s.build.maxPayload → n = s.fresh ∧ m = s.txbuf.write i b) := by
  unfold State.writeTxbuf
  split
  · next h => exact ⟨_, s.fresh, rfl, .inr ⟨i, h, rfl⟩, fun _ => ⟨rfl, rfl⟩⟩
  · next h =>
    refine ⟨_, _, rfl, ?_, fun hc => absurd hc h⟩
    split
    · next k _ =>
      split
      · next hk => exact .inr ⟨k, hk, rfl⟩
      · exact .inl rfl
    · exact .inl rfl

end Sys2Proof.Machine
end

