-- ==== Sys2Proof/Laws/PerInstr.lean ====
section
/-! SUPPORT. Statements made per instruction, one lemma a constructor. Family Spelling: R88's family forms RR(s), REJ(s) and I(s) are other spellings of the six specific codes (log 14), and every other instruction has one spelling. -/

namespace Sys2Proof.Laws.Spelling

/-- An instruction has the encoding, and the operand rules, of the specific instruction it spells. -/
def Statement (i : Instr) : Prop :=
  encode i.specific = encode i ∧ ∀ p : Params, i.specific.wellFormed p = i.wellFormed p

theorem set : Statement .set := ⟨rfl, fun _ => rfl⟩

theorem disc : Statement .disc := ⟨rfl, fun _ => rfl⟩

theorem ua : Statement .ua := ⟨rfl, fun _ => rfl⟩

theorem rr0 : Statement .rr0 := ⟨rfl, fun _ => rfl⟩

theorem rr1 : Statement .rr1 := ⟨rfl, fun _ => rfl⟩

theorem rej0 : Statement .rej0 := ⟨rfl, fun _ => rfl⟩

theorem rej1 : Statement .rej1 := ⟨rfl, fun _ => rfl⟩

theorem i0 : Statement .i0 := ⟨rfl, fun _ => rfl⟩

theorem i1 : Statement .i1 := ⟨rfl, fun _ => rfl⟩

theorem rr (s : Bool) : Statement (.rr s) := by
  cases s <;> exact ⟨rfl, fun _ => rfl⟩

theorem rej (s : Bool) : Statement (.rej s) := by
  cases s <;> exact ⟨rfl, fun _ => rfl⟩

theorem info (s : Bool) : Statement (.info s) := by
  cases s <;> exact ⟨rfl, fun _ => rfl⟩

theorem ctrlFrame (a c : Byte) : Statement (.ctrlFrame a c) := ⟨rfl, fun _ => rfl⟩

theorem infoFrame (a : Byte) (s : Bool) (p : List Byte) : Statement (.infoFrame a s p) := ⟨rfl, fun _ => rfl⟩

theorem cmdOpen : Statement .cmdOpen := ⟨rfl, fun _ => rfl⟩

theorem cmdWrite : Statement .cmdWrite := ⟨rfl, fun _ => rfl⟩

theorem cmdRead : Statement .cmdRead := ⟨rfl, fun _ => rfl⟩

theorem cmdClose (collect : Bool) : Statement (.cmdClose collect) := ⟨rfl, fun _ => rfl⟩

theorem cmdReserved0 : Statement .cmdReserved0 := ⟨rfl, fun _ => rfl⟩

theorem cmdReserved5 : Statement .cmdReserved5 := ⟨rfl, fun _ => rfl⟩

theorem cmdReserved6 : Statement .cmdReserved6 := ⟨rfl, fun _ => rfl⟩

theorem cmdReserved7 : Statement .cmdReserved7 := ⟨rfl, fun _ => rfl⟩

theorem bcc1 (a c : Byte) : Statement (.bcc1 a c) := ⟨rfl, fun _ => rfl⟩

theorem bcc2 (p : List Byte) : Statement (.bcc2 p) := ⟨rfl, fun _ => rfl⟩

theorem stuff (b : Byte) : Statement (.stuff b) := ⟨rfl, fun _ => rfl⟩

theorem destuff (x : Byte) : Statement (.destuff x) := ⟨rfl, fun _ => rfl⟩

theorem encCtrl (a c : Byte) : Statement (.encCtrl a c) := ⟨rfl, fun _ => rfl⟩

theorem encInfo (a : Byte) (s : Bool) (p : List Byte) : Statement (.encInfo a s p) := ⟨rfl, fun _ => rfl⟩

theorem decBody (x : Byte) : Statement (.decBody x) := ⟨rfl, fun _ => rfl⟩

theorem decInfo (f : List Byte) : Statement (.decInfo f) := ⟨rfl, fun _ => rfl⟩

theorem fsmStep (x : Byte) (va ec : List Byte) : Statement (.fsmStep x va ec) := ⟨rfl, fun _ => rfl⟩

theorem armTimer : Statement .armTimer := ⟨rfl, fun _ => rfl⟩

theorem disarmTimer : Statement .disarmTimer := ⟨rfl, fun _ => rfl⟩

theorem timeout : Statement .timeout := ⟨rfl, fun _ => rfl⟩

theorem xportErr : Statement .xportErr := ⟨rfl, fun _ => rfl⟩

theorem reset : Statement .reset := ⟨rfl, fun _ => rfl⟩

end Sys2Proof.Laws.Spelling
end

