-- ==== Sys2Proof/Laws/Receive.lean ====
section
/-! SUPPORT. What one received byte can do in a state whose sequencing registers agree (State.Sequenced), said once: an invariant then needs one small case a row. -/

namespace Sys2Proof.Machine

open Sys2Proof.Config

/-- The state after FSM_STEP on a counted byte (R130, R208). -/
def State.stepped (x : Byte) (s : State) : State := s.countReceived.fsmStep x validAddresses s.expected

@[simp] theorem State.stepped_rcv (x : Byte) (s : State) :
    (s.stepped x).rcv = fsmNext validAddresses s.expected x s.rcv := rfl

/-- A transition to Done comes from AwaitBcc1 or AwaitTrailingFlag and leaves ADDR and CTRL as they are (R134, R135). -/
theorem fsmNext_done {va ec : List Byte} {x : Byte} {r : Receiver} (hr : r.fsm ≠ .done)
    (h : (fsmNext va ec x r).fsm = .done) :
    (r.fsm = .awaitBcc1 ∨ r.fsm = .awaitTrailingFlag) ∧ fsmNext va ec x r = { r with fsm := .done } := by
  revert h
  unfold fsmNext
  cases hs : r.fsm <;> simp only [] <;> (try split_ifs) <;> simp_all

/-- A code of EC is accepted: the operation acts on the state as it is, FSM being Done and CTRL the code (R136). -/
theorem acceptCode_of_expected {c : Byte} {act : State → State} {u : State} (hd : u.rcv.fsm = .done)
    (hc : u.rcv.ctrl = c) (he : c ∈ u.expected) : u.acceptCode c act = act u := by
  have : ({ u.rcv with fsm := .done, ctrl := c } : Receiver) = u.rcv := by
    rw [← hd, ← hc]
  rw [State.acceptCode, if_pos he, this]

/-- What a received byte can do (R118, R131 to R136, R153, R158, R173 to R175, R180 to R182). -/
inductive State.ByteMoves (x : Byte) (s : State) : State → Prop where
  | bodyByte (hop : s.op = .readBody) (hx : x ≠ FLAG) : s.ByteMoves x (s.countReceived.bodyStep x)
  | bodyAccepted (hop : s.op = .readBody) (hx : x = FLAG) (hok : s.body.ok = true) :
      s.ByteMoves x (s.countReceived.handOver (.verdict true)).readAccepted
  | bodyRejected (hop : s.op = .readBody) (hx : x = FLAG) (hok : s.body.ok = false) :
      s.ByteMoves x (s.countReceived.handOver (.verdict false)).readRejected
  | fsm (hop : s.op.runsFsm = true) (hd : (s.stepped x).rcv.fsm ≠ .done) : s.ByteMoves x (s.stepped x)
  | openSet (hop : s.op = .openWait) (hd : (s.stepped x).rcv.fsm = .done) (hc : s.rcv.ctrl = SET) :
      s.ByteMoves x (s.stepped x).sendUa.openDone
  | openUa (hop : s.op = .openWait) (hd : (s.stepped x).rcv.fsm = .done) (hc : s.rcv.ctrl = UA) :
      s.ByteMoves x (s.stepped x).openDone
  | closeDisc (hop : s.op = .closeWait) (hd : (s.stepped x).rcv.fsm = .done) (hc : s.rcv.ctrl = DISC) :
      s.ByteMoves x (s.stepped x).sendUa.closeDone
  | closeUa (hop : s.op = .closeWait) (hd : (s.stepped x).rcv.fsm = .done) (hc : s.rcv.ctrl = UA) :
      s.ByteMoves x (s.stepped x).closeDone
  | acknowledged (hop : s.op = .writeWait) (hd : (s.stepped x).rcv.fsm = .done) (hc : s.rcv.ctrl = rrCode s.txbit) :
      s.ByteMoves x (s.stepped x).writeAcknowledged
  | rejected (hop : s.op = .writeWait) (hd : (s.stepped x).rcv.fsm = .done) (hc : s.rcv.ctrl = rejCode s.txbit) :
      s.ByteMoves x (s.stepped x).writeRejected
  | header (hop : s.op = .readHeader) (hd : (s.stepped x).rcv.fsm = .done) (hc : s.rcv.ctrl = infoCode s.rxbit) :
      s.ByteMoves x (s.stepped x).enterBody

/-! CTRL names the operation's action (R136). -/

theorem actOnCtrl_set {s : State} (h : s.rcv.ctrl = SET) : s.actOnCtrl = s.onSet := by
  unfold State.actOnCtrl; rw [h]; rfl

theorem actOnCtrl_disc {s : State} (h : s.rcv.ctrl = DISC) : s.actOnCtrl = s.onDisc := by
  unfold State.actOnCtrl; rw [h]; rfl

theorem actOnCtrl_ua {s : State} (h : s.rcv.ctrl = UA) : s.actOnCtrl = s.onUa := by
  unfold State.actOnCtrl; rw [h]; rfl

theorem actOnCtrl_rr {s : State} (b : Bool) (h : s.rcv.ctrl = rrCode b) : s.actOnCtrl = s.onRr b := by
  unfold State.actOnCtrl; rw [h]; cases b <;> rfl

theorem actOnCtrl_rej {s : State} (b : Bool) (h : s.rcv.ctrl = rejCode b) : s.actOnCtrl = s.onRej b := by
  unfold State.actOnCtrl; rw [h]; cases b <;> rfl

theorem actOnCtrl_info {s : State} (b : Bool) (h : s.rcv.ctrl = infoCode b) : s.actOnCtrl = s.onInfo b := by
  unfold State.actOnCtrl; rw [h]; cases b <;> rfl

/-- What the operation does when the FSM reaches Done on a code of EC (R136). -/
theorem actOnCtrl_moves {x : Byte} {s : State} (hop : s.op.runsFsm = true) (hd : (s.stepped x).rcv.fsm = .done)
    (hkeep : (s.stepped x).rcv.ctrl = s.rcv.ctrl) (hc : s.rcv.ctrl ∈ s.expected) :
    s.ByteMoves x (s.stepped x).actOnCtrl := by
  have hopu : (s.stepped x).op = s.op := rfl
  have hacc : ∀ (c : Byte) (act : State → State), s.rcv.ctrl = c → (s.stepped x).acceptCode c act = act (s.stepped x) :=
    fun c act e => acceptCode_of_expected hd (hkeep.trans e) (e ▸ hc)
  cases ho : s.op with
  | idle => simp [ho, Op.runsFsm] at hop
  | readBody => simp [ho, Op.runsFsm] at hop
  | openWait =>
    have : s.rcv.ctrl = SET ∨ s.rcv.ctrl = UA := by simpa [State.expected, ho, expectedControls] using hc
    rcases this with e | e
    · rw [actOnCtrl_set (hkeep.trans e), State.onSet, hacc _ _ e]; exact .openSet ho hd e
    · rw [actOnCtrl_ua (hkeep.trans e), State.onUa, hacc _ _ e, if_neg (by simp [hopu, ho])]; exact .openUa ho hd e
  | closeWait =>
    have : s.rcv.ctrl = DISC ∨ s.rcv.ctrl = UA := by simpa [State.expected, ho, expectedControls] using hc
    rcases this with e | e
    · rw [actOnCtrl_disc (hkeep.trans e), State.onDisc, hacc _ _ e]; exact .closeDisc ho hd e
    · rw [actOnCtrl_ua (hkeep.trans e), State.onUa, hacc _ _ e, if_pos (by simp [hopu, ho])]; exact .closeUa ho hd e
  | writeWait =>
    have : s.rcv.ctrl = rrCode s.txbit ∨ s.rcv.ctrl = rejCode s.txbit := by
      simpa [State.expected, ho, expectedControls] using hc
    rcases this with e | e
    · rw [actOnCtrl_rr _ (hkeep.trans e), State.onRr, hacc _ _ e]; exact .acknowledged ho hd e
    · rw [actOnCtrl_rej _ (hkeep.trans e), State.onRej, hacc _ _ e]; exact .rejected ho hd e
  | readHeader =>
    have e : s.rcv.ctrl = infoCode s.rxbit := by simpa [State.expected, ho, expectedControls] using hc
    rw [actOnCtrl_info _ (hkeep.trans e), State.onInfo, hacc _ _ e]; exact .header ho hd e

/-- Inversion of the byte event in a sequenced state. -/
theorem rxByte_moves {x : Byte} {s : State} (hs : s.Sequenced) (hop : s.op ≠ .idle) : s.ByteMoves x (s.rxByte x) := by
  unfold State.rxByte
  rw [if_neg hop]
  split
  · next hb =>
    unfold State.bodyByte State.decBody
    split
    · next hx =>
      unfold State.bodyClosed
      simp only [State.handOver_body, State.countReceived_body]
      by_cases hok : s.body.ok = true
      · rw [if_pos hok, hok]; exact .bodyAccepted hb hx hok
      · rw [if_neg hok, Bool.eq_false_iff.mpr hok]; exact .bodyRejected hb hx (Bool.eq_false_iff.mpr hok)
    · next hx => exact .bodyByte hb hx
  · next hb =>
    have hrf : s.op.runsFsm = true := by
      cases ho : s.op <;> first | rfl | exact absurd ho hop | exact absurd ho hb
    have hne := hs.running hrf
    unfold State.fsmByte
    show s.ByteMoves x (if s.rcv.fsm ≠ .done ∧ (s.stepped x).rcv.fsm = .done then (s.stepped x).actOnCtrl
      else s.stepped x)
    split
    · next h =>
      obtain ⟨hfrom, hto⟩ := fsmNext_done hne h.2
      exact actOnCtrl_moves hrf h.2 (by rw [State.stepped_rcv, hto]) (hs.ctrlRecorded hrf hfrom)
    · next h => exact .fsm hrf (fun hd => h ⟨hne, hd⟩)

end Sys2Proof.Machine
end

