-- ==== Sys2Proof/Tests/Slice0.lean ====
section
/-! SUPPORT. The model's own tests: ill-formed terms, words written out from the spec's encodings, vectors of spec/95_test_vectors.md, and for every statement with hypotheses a concrete state and operands that meet them. -/

namespace Sys2Proof.Tests

open Sys2Proof.Config Sys2Proof.Machine

/-! ## WellFormed: each check refuses an ill-formed term -/

theorem test_wf_frame_address : (Instr.ctrlFrame 0x02 SET).wellFormed Params.examples = false := by decide
theorem test_wf_frame_control : (Instr.ctrlFrame A_TX I0).wellFormed Params.examples = false := by decide
theorem test_wf_frame_undefined : (Instr.ctrlFrame A_TX 0x08).wellFormed Params.examples = false := by decide
theorem test_wf_info_address : (Instr.infoFrame FLAG true []).wellFormed Params.examples = false := by decide
theorem test_wf_info_length :
    (Instr.infoFrame A_RX true (List.replicate 17 0)).wellFormed Params.examples = false := by decide
theorem test_wf_bcc2_length : (Instr.bcc2 (List.replicate 17 0)).wellFormed Params.examples = false := by decide
theorem test_wf_destuff_flag : (Instr.destuff FLAG).wellFormed Params.examples = false := by decide
theorem test_wf_enc_ctrl : (Instr.encCtrl A_TX FLAG).wellFormed Params.examples = false := by decide
theorem test_wf_enc_info : (Instr.encInfo 0x00 true []).wellFormed Params.examples = false := by decide
theorem test_wf_fsm_va : (Instr.fsmStep 0 [A_TX] [SET, UA]).wellFormed Params.examples = false := by decide
theorem test_wf_fsm_ec_empty : (Instr.fsmStep 0 validAddresses []).wellFormed Params.examples = false := by decide
theorem test_wf_fsm_ec_undefined :
    (Instr.fsmStep 0 validAddresses [SET, 0x5C]).wellFormed Params.examples = false := by decide
theorem test_wf_fsm_ec_repeated :
    (Instr.fsmStep 0 validAddresses [UA, UA]).wellFormed Params.examples = false := by decide
theorem test_wf_accepts :
    (Instr.ctrlFrame A_RX DISC).wellFormed Params.examples = true ∧
      (Instr.infoFrame A_TX false (List.replicate 16 0x5C)).wellFormed Params.examples = true ∧
      (Instr.fsmStep 0x5C validAddresses [RR0, REJ0]).wellFormed Params.examples = true := by decide

/-! ## Decoding: words written out from R87, R81, R82 and R100 -/

/-- R87's table: the nine control bytes, in binary. -/
theorem test_decode_control_bytes :
    decode (.control 0b00000111) = .ok .set ∧ decode (.control 0b00001010) = .ok .disc ∧
      decode (.control 0b00000110) = .ok .ua ∧ decode (.control 0b00000001) = .ok .rr0 ∧
      decode (.control 0b00010001) = .ok .rr1 ∧ decode (.control 0b00000101) = .ok .rej0 ∧
      decode (.control 0b00010101) = .ok .rej1 ∧ decode (.control 0b10000000) = .ok .i0 ∧
      decode (.control 0b11000000) = .ok .i1 := by decide

/-- R88: the family forms, sequence bit at bit 4 and bit 6. -/
theorem test_decode_family_forms :
    (encode (.rr true)).map decode = some (.ok .rr1) ∧ (encode (.rej true)).map decode = some (.ok .rej1) ∧
      (encode (.info true)).map decode = some (.ok .i1) ∧ encode (.info false) = some (.control 0b10000000) := by decide

/-- R95: an undefined control byte is refused by name. -/
theorem test_decode_undefined_control : decode (.control 0x03) = .error (.undefinedControl 0x03) := by decide

/-- 95 section 2.1: SET.i, REJ1.i. -/
theorem test_decode_control_frames :
    decode (.frame [0x5C, 0x01, 0x07, 0x06, 0x5C]) = .ok (.ctrlFrame 0x01 0x07) ∧
      decode (.frame [0x5C, 0x03, 0x15, 0x16, 0x5C]) = .ok (.ctrlFrame 0x03 0x15) := by decide

/-- 95 section 2.2: the empty payload, and the row `48 5C 49`. -/
theorem test_decode_information_frames :
    decode (.frame [0x5C, 0x01, 0x80, 0x81, 0x00, 0x5C]) = .ok (.infoFrame 0x01 false []) ∧
      decode (.frame [0x5C, 0x01, 0xC0, 0xC1, 0x48, 0x5D, 0x7C, 0x49, 0x5D, 0x7D, 0x5C])
        = .ok (.infoFrame 0x01 true [0x48, 0x5C, 0x49]) := by decide

/-- R80, R92, R94, R96, R97: each malformed frame is refused by name. -/
theorem test_decode_malformed_frames :
    decode (.frame [0x00, 0x01, 0x07, 0x06, 0x5C]) = .error .noOpeningFlag ∧
      decode (.frame [0x5C, 0x02, 0x07, 0x05, 0x5C]) = .error (.undefinedAddress 0x02) ∧
      decode (.frame [0x5C, 0x01, 0x07, 0x07, 0x5C]) = .error .badBcc1 ∧
      decode (.frame [0x5C, 0x01, 0x07, 0x06, 0x00]) = .error .noClosingFlag ∧
      decode (.frame [0x5C, 0x01, 0x80, 0x81, 0x5D, 0x5C]) = .error .danglingEscape ∧
      decode (.frame [0x5C, 0x01, 0x80, 0x81, 0x5D, 0x41, 0x61, 0x5C]) = .error (.badEscape 0x41) ∧
      decode (.frame [0x5C, 0x01, 0x80, 0x81, 0x5C]) = .error .missingBcc2 ∧
      decode (.frame [0x5C, 0x01, 0x80, 0x81, 0x41, 0x42, 0x04, 0x5C]) = .error .badBcc2 ∧
      decode (.frame [0x5C, 0x01, 0x80, 0x81, 0x41]) = .error .truncated ∧
      decode (.frame [0x5C, 0x01, 0x07, 0x06, 0x5C, 0x5C]) = .error .trailingBytes := by decide

/-- R100: every command code; CMD[3] is CLOSE's. -/
theorem test_decode_commands :
    decode (.command 0b0000) = .ok .cmdReserved0 ∧ decode (.command 0b0001) = .ok .cmdOpen ∧
      decode (.command 0b1010) = .ok .cmdWrite ∧ decode (.command 0b0011) = .ok .cmdRead ∧
      decode (.command 0b0100) = .ok (.cmdClose false) ∧ decode (.command 0b1100) = .ok (.cmdClose true) ∧
      decode (.command 0b0101) = .ok .cmdReserved5 ∧ decode (.command 0b0110) = .ok .cmdReserved6 ∧
      decode (.command 0b10111) = .ok .cmdReserved7 := by decide

/-- The opcode table's rows: a control byte, a command word and a frame, numbered as the table numbers them. -/
theorem test_decode_table_words :
    decodeTableWord 8 0x0A = some .disc ∧ decodeTableWord 32 0x0C = some (.cmdClose true) ∧
      decodeTableWord 8 0x02 = some .cmdWrite ∧
      decodeTableWord 40 0x5C0607015C = some (.ctrlFrame 0x01 0x07) ∧
      decodeTableWord 48 0x5C008180015C = some (.infoFrame 0x01 false []) := by decide

/-! ## One step on a small state -/

/-- Reads a part of a next state. -/
def after {α : Type} (o : Host.Outcome State Fault Refusal) (f : State → α) : Option α :=
  match o with
  | .next t => some (f t)
  | .fault _ => none
  | .refused _ => none

/-- A block that the host has configured (95 section 3: CFG_TRIES = 2, CFG_TIMEOUT = 5), after reset. -/
def configured (r : Role) : State := { State.reset with cfgRole := r, cfgTries := 2, cfgTimeout := 5 }

/-- A legal state in each position of the engine. -/
def inOp (o : Op) : State :=
  { configured .initiator with
    numTries := 2, timeOut := 5, openf := decide (o ≠ .openWait), op := o, tarmed := o.timed
    tmr := if o.timed then 5 else 0
    rcv := if o = .readBody then { fsm := .done, addr := 0x01, ctrl := 0x80 }
           else { fsm := .awaitFlag, addr := 0, ctrl := 0 }
    framelen := 6, framebuf := [(0, 0x5C), (1, 0x01), (2, 0x80), (3, 0x81), (4, 0x00), (5, 0x5C)] }

/-- R101: reserved codes finish with Refused. -/
theorem test_reserved_refused :
    after (exec .cmdReserved7 (inOp .idle)) (fun t => (t.result, t.done)) = some (.refused, true) ∧
      after (exec .cmdReserved0 (inOp .idle)) (·.op) = some .idle := by decide

/-- P1: OPEN by an Initiator sends SET.i. P2: a Responder sends nothing. -/
theorem test_open :
    after (exec .cmdOpen (configured .initiator)) (·.tx) = some [0x5C, 0x01, 0x07, 0x06, 0x5C] ∧
      after (exec .cmdOpen (configured .responder)) (fun t => (t.tx, t.op)) = some ([], .openWait) := by decide

/-- P6: OPEN with CFG_TRIES = 0 is refused. -/
theorem test_open_refused : after (exec .cmdOpen State.reset) (·.result) = some .refused := by decide

/-- P4: WRITE [5C 41]: the frame of 9 bytes, 1 escaped. -/
theorem test_write :
    after (exec .cmdWrite { inOp .idle with txlen := 2, txbuf := [(0, 0x5C), (1, 0x41)] })
      (fun t => (t.tx, t.stat.escaped, t.framelen))
      = some ([0x5C, 0x01, 0x80, 0x81, 0x5D, 0x7C, 0x41, 0x1D, 0x5C], 1, 9) := by decide

/-- P6: WRITE with TXLEN = 17 is refused. -/
theorem test_write_too_long :
    after (exec .cmdWrite { inOp .idle with txlen := 17 }) (·.result) = some .refused := by decide

/-- R179: READ does not arm the timer. -/
theorem test_read : after (exec .cmdRead (inOp .idle)) (fun t => (t.op, t.tarmed)) = some (.readHeader, false) := by decide

/-- P1: CLOSE by an Initiator sends DISC.i. -/
theorem test_close : after (exec (.cmdClose true) (inOp .idle)) (fun t => (t.tx, t.collect))
    = some ([0x5C, 0x01, 0x0A, 0x0B, 0x5C], true) := by decide

/-- P2: a Responder answers SET with UA.r and is open. -/
theorem test_set :
    after (exec .set { inOp .openWait with role := .responder }) (fun t => (t.tx, t.openf))
      = some ([0x5C, 0x01, 0x06, 0x07, 0x5C], true) := by decide

/-- P7: an Initiator answers DISC with UA.i and pulses stats_valid. -/
theorem test_disc :
    after (exec .disc { inOp .closeWait with collect := true }) (fun t => (t.tx, t.openf, t.statsValid))
      = some ([0x5C, 0x03, 0x06, 0x05, 0x5C], false, true) := by decide

/-- P1: UA ends OPEN and CLOSE with Ok; nothing is sent. -/
theorem test_ua :
    after (exec .ua (inOp .openWait)) (fun t => (t.tx, t.openf, t.result)) = some ([], true, .ok) ∧
      after (exec .ua (inOp .closeWait)) (·.openf) = some false := by decide

/-- R174: RR of the bit sent flips TXBIT; RR of the other bit is skipped. -/
theorem test_rr :
    after (exec .rr0 (inOp .writeWait)) (fun t => (t.txbit, t.stat.framesSent)) = some (true, 1) ∧
      after (exec .rr1 (inOp .writeWait)) (fun t => (t.txbit, t.op)) = some (false, .writeWait) := by decide

/-- R175: REJ resends the frame held; P5: REJ at RETRY = NUM_TRIES ends the WRITE. -/
theorem test_rej :
    after (exec .rej0 (inOp .writeWait)) (fun t => (t.tx, t.retry)) = some ([0x5C, 0x01, 0x80, 0x81, 0x00, 0x5C], 1) ∧
      after (exec (.rej false) { inOp .writeWait with retry := 2 }) (fun t => (t.result, t.retry, t.tx))
        = some (.retriesExhausted, 3, []) := by decide

/-- R180: the header I(RXBIT) enters the body; I of the other bit is a duplicate (R183). -/
theorem test_info :
    after (exec .i0 (inOp .readHeader)) (·.op) = some .readBody ∧
      after (exec .i1 (inOp .readHeader)) (·.op) = some .readHeader := by decide

/-- 95 section 2.3 and 2.4: the codec functions. -/
theorem test_codec_functions :
    after (exec (.bcc1 0x03 0xC0) State.reset) (·.codecOut) = some (.byte 0xC3) ∧
      after (exec (.bcc2 [0x5C, 0x41]) State.reset) (·.codecOut) = some (.byte 0x1D) ∧
      after (exec (.stuff 0x5D) State.reset) (·.codecOut) = some (.bytes [0x5D, 0x7D]) ∧
      after (exec (.destuff 0x41) State.reset) (·.codecOut) = some (.byte 0x61) := by decide

/-- 95 sections 2.1 and 2.2: ENC_CTRL and ENC_INFO. -/
theorem test_encoders :
    after (exec (.encCtrl 0x03 0x11) State.reset) (·.codecOut) = some (.bytes [0x5C, 0x03, 0x11, 0x12, 0x5C]) ∧
      after (exec (.encInfo 0x03 true [0x5C, 0x5D, 0x00]) State.reset) (·.codecOut)
        = some (.frame [0x5C, 0x03, 0xC0, 0xC3, 0x5D, 0x7C, 0x5D, 0x7D, 0x00, 0x01, 0x5C] 2) := by decide

/-- R120, 95 section 2.5: DEC_INFO takes a non-canonical escape (R122); a damaged BCC2; an unfinished body. -/
theorem test_dec_info :
    after (exec (.decInfo [0x5C, 0x01, 0x80, 0x81, 0x5D, 0x41, 0x61, 0x5C]) State.reset) (·.codecOut)
        = some (.info 0x01 false [0x61]) ∧
      after (exec (.decInfo [0x5C, 0x01, 0x80, 0x81, 0x41, 0x42, 0x04, 0x5C]) State.reset) (·.codecOut)
        = some .checksumMismatch ∧
      after (exec (.decInfo [0x5C, 0x01, 0x80, 0x81, 0x41]) State.reset) (·.codecOut) = some .incomplete := by decide

/-- R118: an ESC and the byte behind it; the first byte beyond RXBUF sets RXOVF. -/
theorem test_dec_body :
    after (exec (.decBody 0x7C) { inOp .readBody with body := { Body.entry with escp := true } })
        (fun t => (t.body, t.rxbuf)) = some ({ Body.entry with bccacc := 0x5C, rxcnt := 1 }, [(0, 0x5C)]) ∧
      after (exec (.decBody 0x41) { inOp .readBody with body := { Body.entry with rxcnt := 17 } })
        (fun t => (t.body.rxovf, t.rxbuf)) = some (true, []) := by decide

/-- R145, run 4: a bad BCC1; 95 section 2.6: an information header ends the run at BCC1. -/
theorem test_fsm_step :
    after (exec (.fsmStep 0x08 validAddresses [DISC, UA])
        { State.reset with rcv := { fsm := .awaitBcc1, addr := 0x03, ctrl := 0x0A } }) (·.rcv.fsm) = some .awaitFlag ∧
      after (exec (.fsmStep 0x81 validAddresses [I0])
        { State.reset with rcv := { fsm := .awaitBcc1, addr := 0x01, ctrl := 0x80 } }) (·.rcv.fsm) = some .done := by decide

/-- R186, R187. -/
theorem test_timer :
    after (exec .armTimer { inOp .idle with tmr := 1 }) (fun t => (t.tmr, t.tarmed)) = some (5, true) ∧
      after (exec .disarmTimer (inOp .openWait)) (fun t => (t.tmr, t.tarmed)) = some (5, false) := by decide

/-- P3: the timeout that exceeds the budget ends OPEN; the one before it resends SET. -/
theorem test_timeout :
    after (exec .timeout { inOp .openWait with retry := 2 }) (fun t => (t.result, t.retry)) = some (.retriesExhausted, 3) ∧
      after (exec .timeout { inOp .openWait with retry := 1 }) (fun t => (t.tx, t.tmr))
        = some ([0x5C, 0x01, 0x07, 0x06, 0x5C], 5) := by decide

/-- P8: a transport error ends READ and leaves OPENF; in CLOSE it clears OPENF. -/
theorem test_xport_err :
    after (exec .xportErr (inOp .readBody)) (fun t => (t.result, t.openf)) = some (.transportError, true) ∧
      after (exec .xportErr (inOp .closeWait)) (·.openf) = some false := by decide

/-- R250: the Transport's bytes stay. -/
theorem test_reset : after (exec .reset { inOp .readBody with rx := [0x41] }) (fun t => (t.rx, t.cfgTries, t.done))
    = some ([0x41], 0, false) := by decide

/-- P6: a SET that carries A_RX is accepted by an Initiator (R91). -/
theorem test_ctrl_frame :
    after (exec (.ctrlFrame 0x03 0x07) (inOp .openWait)) (fun t => (t.tx, t.openf, t.stat.bytesRecv))
      = some ([0x5C, 0x03, 0x06, 0x05, 0x5C], true, 5) := by decide

/-- P2: the frame I0.i[41 42] delivers 41 42 and is acknowledged with RR0.r. -/
theorem test_info_frame :
    after (exec (.infoFrame 0x01 false [0x41, 0x42]) { inOp .readHeader with role := .responder })
      (fun t => (t.tx, t.rxlen, t.rxbuf, t.rxbit))
      = some ([0x5C, 0x01, 0x01, 0x00, 0x5C], 2, [(0, 0x41), (1, 0x42), (2, 0x03)], true) := by decide

/-- R231: a byte is taken before a Timeout that is due at the same instant. -/
theorem test_byte_before_timeout :
    after (step { inOp .openWait with tmr := 0, rx := [0x5C], pend := { Lines.clear with rxValid := true } })
      (fun t => (t.rcv.fsm, t.stat.timeouts)) = some (.awaitAddress, 0) := by decide

/-- R65: after a READ that ended Ok the host reads the payload [41 42] and, behind it, the BCC2 byte 03. -/
theorem test_rxbuf_after_read :
    after (exec (.infoFrame A_TX false [0x41, 0x42]) (inOp .readHeader))
      (fun t => ((t.readRxbuf 0).rdata, (t.readRxbuf 1).rdata, (t.readRxbuf 2).rdata, t.rxlen))
      = some (0x41, 0x42, 0x03, 2) := by decide

/-- R61, R63, R228: an instant at which a byte arrives, is offered, and the timer ticks, in OpenWait. -/
theorem test_instant :
    after (step { inOp .openWait with inputs := [.instant false true [0x5C] true true (some 3)], rx := [0x41] })
      (fun t => (t.rx, t.pend)) = some ([0x41, 0x5C], { rst := false, xportErr := true, rxValid := true, cmd := none }) := by
  decide

/-- The rows' words, placed where the step fetches, run as the first instruction after reset. -/
theorem test_first_instruction :
    after (step (State.reset.withFetchWord 8 0x07)) (fun t => (t.openf, t.rcv.ctrl)) = some (true, 0x07) ∧
      after (step (State.reset.withFetchWord 32 7)) (·.result) = some .refused ∧
      after (step (State.reset.withFetchWord 40 0x5C0607015C)) (·.rx) = some [0x5C, 0x01, 0x07, 0x06, 0x5C] := by decide

/-! ## Witnesses: states and operands that meet a statement's hypotheses, for each of its clauses -/

theorem witness_legal (o : Op) : (inOp o).Sequenced ∧ (inOp o).Budgeted ∧ (inOp o).InWidth ∧ (inOp o).Buffered ∧
    (inOp o).HoldsFrame ∧ (inOp o).InParity := by
  cases o <;> exact ⟨by constructor <;> decide, by constructor <;> decide, by constructor <;> decide,
    by constructor <;> decide, fun _ => ⟨[], by decide, by decide, by decide⟩, by constructor <;> decide⟩

theorem witness_DecodeOfEncode : ∃ (p : Params) (i : Instr) (e : Encoded), i.wellFormed p = true ∧ encode i = some e :=
  ⟨Params.examples, .infoFrame A_RX true [0x5C], _, by decide, rfl⟩

theorem witness_EncodeOfDecode : ∃ (e : Encoded) (i : Instr), (∀ w, e ≠ .command w) ∧ decode e = .ok i :=
  ⟨.control 0xC0, .i1, by simp, by decide⟩

theorem witness_frames : ∃ (a : Byte) (p : List Byte), a ∈ [A_TX, A_RX] ∧ a ∈ validAddresses ∧
    p.length ≤ State.reset.build.maxPayload ∧ FLAG ∉ [ESC, 0x00] := ⟨A_RX, List.replicate 16 FLAG, by decide⟩

/-- BodyByteStep: a FLAG; an ESC; a stored byte at the last place of RXBUF, plain and escaped; a byte beyond it. -/
theorem witness_BodyByteStep : ∃ s u : State, s.body.escp = false ∧ s.body.rxcnt = s.build.maxPayload ∧
    u.body.escp = true ∧ u.build.maxPayload < u.body.rxcnt ∧ (0x41 : Byte) ≠ FLAG ∧ (0x41 : Byte) ≠ ESC :=
  ⟨{ inOp .readBody with body := { Body.entry with rxcnt := 16 } },
   { inOp .readBody with body := { Body.entry with escp := true, rxcnt := 17 } }, by decide⟩

/-- BodyByteStep, the count: RXBUF full, with RXOVF clear and set. -/
theorem witness_BodyByteStep_count : ∀ b : Bool,
    let s : State := { inOp .readBody with body := { Body.entry with rxcnt := 17, rxovf := b } }
    s.body.rxcnt ≤ s.build.maxPayload + 1 ∧ (s.body.rxovf = true → s.body.rxcnt = s.build.maxPayload + 1) := by decide

/-- CodecFunctions, DEC_INFO: no header; a header and no closing FLAG; a good body; one whose BCC2 is wrong. -/
theorem witness_CodecFunctions :
    let run := fun (bs : List Byte) =>
      bs.foldl (fun r y => fsmNext validAddresses [0x80, 0xC0] y r) { fsm := .awaitFlag, addr := 0x00, ctrl := 0x00 }
    (∀ k ∈ [0, 1], (run (([0x41] : List Byte).take k)).fsm ≠ .done) ∧ (run [0x5C, 0x01, 0x80, 0x81]).fsm = .done ∧
      (∀ k ∈ [0, 1, 2, 3], (run (([0x5C, 0x01, 0x80, 0x81] : List Byte).take k)).fsm ≠ .done) ∧
      FLAG ∉ ([0x41, 0x42] : List Byte) ∧
      (([0x41, 0x42, 0x03] : List Byte).foldl (fun u x => u.bodyStep x) State.reset.enterBody).body
        = { escp := false, bccacc := 0x00, rxcnt := 3, rxovf := false } ∧
      (([0x41, 0x42, 0x04] : List Byte).foldl (fun u x => u.bodyStep x) State.reset.enterBody).body.bccacc ≠ 0x00 := by
  decide

theorem witness_FsmTransitionTable : ∀ f : Fsm, f ≠ .done → ∃ s : State, s.rcv.fsm = f :=
  fun f _ => ⟨{ State.reset with rcv := { fsm := f, addr := 0, ctrl := 0 } }, rfl⟩

/-- AcceptanceOnlyOfFrames: a control frame and an information header, R145 runs 1 and 3. -/
theorem witness_AcceptanceOnlyOfFrames :
    (([0x5C, 0x01, 0x06, 0x07] : List Byte).foldl (fun r y => fsmNext validAddresses [SET, UA] y r) State.reset.rcv).fsm
        ≠ .done ∧
      (([0x5C, 0x01, 0x06, 0x07] ++ [0x5C] : List Byte).foldl (fun r y => fsmNext validAddresses [SET, UA] y r)
        State.reset.rcv).fsm = .done ∧
      (([0x5C, 0x01, 0xC0] ++ [0xC1] : List Byte).foldl (fun r y => fsmNext validAddresses [I1] y r)
        State.reset.rcv).fsm = .done := by decide

/-- NoFrameMissed: noise that is a partial match, R145 run 2. -/
theorem witness_NoFrameMissed :
    [RR0, REJ0] ⊆ controlCodes ∧ A_TX ∈ validAddresses ∧ RR0 ∈ [RR0, REJ0] ∧
      (([0x00, 0x5C, 0x01, 0x11, 0x10, 0x5C] : List Byte).foldl (fun r y => fsmNext validAddresses [RR0, REJ0] y r)
        State.reset.rcv).fsm = .awaitAddress := by decide

/-- RefusedCommands: each refusing condition. -/
theorem witness_RefusedCommands :
    State.reset.op = .idle ∧ State.reset.cfgTries = 0 ∧ State.reset.openf = false ∧
      (inOp .idle).op = .idle ∧ (inOp .idle).openf = true ∧
      { configured .initiator with cfgTimeout := 0 }.cfgTimeout = 0 ∧
      (inOp .idle).build.maxPayload < { inOp .idle with txlen := 17 }.txlen := by decide

theorem witness_OpenStarts : ∀ r : Role, (configured r).op = .idle ∧ (configured r).openf = false ∧
    (configured r).cfgTries ≠ 0 ∧ (configured r).cfgTimeout ≠ 0 := by intro r; cases r <;> decide

theorem witness_open_idle : (inOp .idle).op = .idle ∧ (inOp .idle).openf = true ∧
    (inOp .idle).txlen ≤ (inOp .idle).build.maxPayload ∧
    (inOp .idle).stat.bytesSent < 2 ^ (inOp .idle).build.cntW := by decide

/-- A quiet state whose environment moves next, in any position of the engine: InstantRaisesEvents, SentBytesCounted,
RetransmissionsIdentical (the move txTake). -/
theorem witness_quiet (o : Op) (m : Input) : ({ inOp o with inputs := [m] } : State).Quiet ∧
    ({ inOp o with inputs := [m] } : State).inputs = [m] := by
  refine ⟨?_, rfl⟩
  cases o <;> exact ⟨rfl, rfl, .inl rfl, by simp [inOp, Op.timed], rfl⟩

theorem witness_CommandsNotTakenWhileBusy : ∃ s : State, s.op ≠ .idle ∧ s.Quiet ∧ s.inputs = [.regWrite 0 1] :=
  ⟨{ inOp .readHeader with inputs := [.regWrite 0 1] }, by decide, witness_quiet .readHeader (.regWrite 0 1)⟩

/-- ExpectedCodesAct, AcknowledgementCodesAct: each position; for REJ the last attempt and one before it. -/
theorem witness_expected_codes : (inOp .openWait).op = .openWait ∧ (inOp .closeWait).op = .closeWait ∧
    (inOp .readHeader).op = .readHeader ∧ (inOp .readHeader).rxbit = false ∧
    (inOp .writeWait).op = .writeWait ∧ (inOp .writeWait).txbit = false ∧
    (inOp .writeWait).retry < (inOp .writeWait).numTries ∧
    { inOp .writeWait with retry := 2 }.retry = { inOp .writeWait with retry := 2 }.numTries ∧
    (inOp .writeWait).numTries < 2 ^ (inOp .writeWait).build.triesW := by decide

theorem witness_UnexpectedCodesSkipped : encode .i1 = some (.control 0xC0) ∧ (0xC0 : Byte) ≠ 0x07 ∧ (0xC0 : Byte) ≠ 0x06 ∧
    (0xC0 : Byte) ≠ 0x0A ∧ (0xC0 : Byte) ≠ rrCode (inOp .writeWait).txbit ∧
    (0xC0 : Byte) ≠ rejCode (inOp .writeWait).txbit ∧ (0xC0 : Byte) ≠ infoCode (inOp .readHeader).rxbit := by decide

/-- A state in position o that is offered byte x with the receiver as given. -/
def offered (o : Op) (r : Receiver) (x : Byte) : State :=
  { inOp o with rcv := r, rx := [x], pend := { Lines.clear with rxValid := true } }

/-- LifecycleByteSteps: in OPEN and CLOSE a byte that does not end the run, and the last byte of each expected frame. -/
theorem witness_LifecycleByteSteps :
    ∀ p ∈ [(Op.openWait, SET), (Op.openWait, UA), (Op.closeWait, DISC), (Op.closeWait, UA)],
      (offered p.1 { fsm := .awaitTrailingFlag, addr := A_TX, ctrl := p.2 } FLAG).Sequenced ∧
      (offered p.1 { fsm := .awaitTrailingFlag, addr := A_TX, ctrl := p.2 } FLAG).Offers FLAG [] ∧
      (offered p.1 { fsm := .awaitTrailingFlag, addr := A_TX, ctrl := p.2 } 0x00).Offers 0x00 [] := by
  intro p hp
  simp only [List.mem_cons, List.not_mem_nil, or_false] at hp
  rcases hp with rfl | rfl | rfl | rfl <;>
    exact ⟨by constructor <;> decide, by constructor <;> decide, by constructor <;> decide⟩

/-- WriteByteStep: the last byte of RR and of REJ, the latter in the last attempt and in one before it; and a byte between. -/
theorem witness_WriteByteStep :
    ∀ p ∈ [(RR0, 0), (REJ0, 0), (REJ0, 2)],
      (State.Sequenced { offered .writeWait { fsm := .awaitTrailingFlag, addr := A_RX, ctrl := p.1 } FLAG with
        retry := p.2 }) ∧
      (State.Budgeted { offered .writeWait { fsm := .awaitTrailingFlag, addr := A_RX, ctrl := p.1 } FLAG with
        retry := p.2 }) ∧
      (State.InWidth { offered .writeWait { fsm := .awaitTrailingFlag, addr := A_RX, ctrl := p.1 } FLAG with
        retry := p.2 }) ∧
      (State.Offers { offered .writeWait { fsm := .awaitTrailingFlag, addr := A_RX, ctrl := p.1 } FLAG with
        retry := p.2 } FLAG []) := by
  intro p hp
  simp only [List.mem_cons, List.not_mem_nil, or_false] at hp
  rcases hp with rfl | rfl | rfl <;>
    exact ⟨by constructor <;> decide, by constructor <;> decide, by constructor <;> decide, by constructor <;> decide⟩

/-- ReadByteSteps: a byte that does not end the run and the last byte of a header; in the body a data byte, and a FLAG that
closes a good body and an empty one. -/
theorem witness_ReadByteSteps :
    (offered .readHeader { fsm := .awaitBcc1, addr := A_TX, ctrl := I0 } 0x81).Sequenced ∧
      (offered .readHeader { fsm := .awaitBcc1, addr := A_TX, ctrl := I0 } 0x81).Offers 0x81 [] ∧
      (offered .readHeader { fsm := .awaitFlag, addr := 0, ctrl := 0 } 0x41).Offers 0x41 [] ∧
      (offered .readBody { fsm := .done, addr := A_TX, ctrl := I0 } FLAG).Sequenced ∧
      (offered .readBody { fsm := .done, addr := A_TX, ctrl := I0 } FLAG).Offers FLAG [] ∧
      (offered .readBody { fsm := .done, addr := A_TX, ctrl := I0 } 0x41).Offers 0x41 [] ∧
      (State.Offers { offered .readBody { fsm := .done, addr := A_TX, ctrl := I0 } FLAG with
        body := { Body.entry with rxcnt := 1 } } FLAG []) := by
  exact ⟨by constructor <;> decide, by constructor <;> decide, by constructor <;> decide, by constructor <;> decide,
    by constructor <;> decide, by constructor <;> decide, by constructor <;> decide⟩

/-- TimeoutSteps: in each timed position the last attempt and one before it, for both roles. -/
theorem witness_TimeoutSteps (r : Role) (o : Op) (ho : o.timed = true) :
    (State.Budgeted { inOp o with role := r }) ∧ (State.Budgeted { inOp o with role := r, retry := 2 }) ∧
      (State.InWidth { inOp o with role := r, retry := 2 }) ∧ (inOp o).tarmed = true ∧
      (inOp o).retry + 1 ≤ (inOp o).numTries ∧ { inOp o with retry := 2 }.numTries < { inOp o with retry := 2 }.retry + 1 := by
  cases r <;> cases o <;> simp only [Op.timed, Bool.false_eq_true] at ho <;>
    exact ⟨by constructor <;> decide, by constructor <;> decide, by constructor <;> decide, by decide⟩

theorem witness_TimerOperations : (inOp .idle).tarmed = false ∧ (inOp .openWait).tarmed = true ∧
    { inOp .readBody with tarmed := true }.op = .readBody := by decide

/-- TickCountsDown: disarmed; armed; the tick that brings TMR to 0. -/
theorem witness_TickCountsDown : ∃ s t u : State,
    s.Quiet ∧ s.tarmed = false ∧ t.Quiet ∧ t.tarmed = true ∧ u.Quiet ∧ u.tarmed = true ∧ u.tmr = 1 ∧
      s.inputs = [.instant false false [] false true none] ∧ t.inputs = s.inputs ∧ u.inputs = s.inputs :=
  ⟨{ inOp .readHeader with inputs := [.instant false false [] false true none] },
   { inOp .writeWait with inputs := [.instant false false [] false true none] },
   { inOp .writeWait with inputs := [.instant false false [] false true none], tmr := 1 },
   (witness_quiet _ _).1, rfl, (witness_quiet _ _).1, rfl, ⟨rfl, rfl, .inl rfl, .inr (by decide), rfl⟩,
   rfl, rfl, rfl, rfl, rfl⟩

/-- StepRunsInstruction: a Timeout that is due, a command word, the byte that completes a frame, a frame that is next. -/
theorem witness_StepRunsInstruction :
    (({ inOp .openWait with tmr := 0 } : State).tarmed = true ∧ ({ inOp .openWait with tmr := 0 } : State).pend = Lines.clear) ∧
      decode (.command 3) = .ok .cmdRead ∧ (inOp .idle).tarmed = false ∧
      (offered .openWait { fsm := .awaitTrailingFlag, addr := A_TX, ctrl := UA } FLAG).Offers FLAG [] ∧
      after (exec (.fsmStep FLAG validAddresses [SET, UA])
        ((offered .openWait { fsm := .awaitTrailingFlag, addr := A_TX, ctrl := UA } FLAG).afterTaking []))
        (fun t => (t.rcv.fsm, decode (.control t.rcv.ctrl))) = some (.done, .ok .ua) ∧
      (State.Quiet { inOp .openWait with inputs := [.line [0x5C, 0x01, 0x06, 0x07, 0x5C]] }) ∧
      decode (.frame [0x5C, 0x01, 0x06, 0x07, 0x5C]) = .ok (.ctrlFrame 0x01 0x06) :=
  ⟨by decide, by decide, by decide, by constructor <;> decide, by decide, (witness_quiet _ _).1, by decide⟩

/-- ControlFrameRuns, InformationFrameDelivered, DuplicateDropped. -/
theorem witness_whole_frames : (inOp .openWait).op.runsFsm = true ∧ (inOp .openWait).rx = [] ∧
    (inOp .openWait).rcv.fsm = .awaitFlag ∧ A_RX ∈ validAddresses ∧ UA ∈ (inOp .openWait).expected ∧ isInfo UA = false ∧
    decode (.control UA) = .ok .ua ∧ (inOp .readHeader).op = .readHeader ∧ (inOp .readHeader).rx = [] ∧
    (inOp .readHeader).rcv.fsm = .awaitFlag ∧
    (List.replicate 16 FLAG).length ≤ (inOp .readHeader).build.maxPayload := by decide

theorem witness_ControlFrameRuns : ∃ t, exec .ua { inOp .openWait with
    done := false, statsValid := false, rcv := { fsm := .done, addr := A_RX, ctrl := UA }
    stat := { (inOp .openWait).stat with bytesRecv := ((inOp .openWait).stat.bytesRecv + 5) % 2 ^ 32 } } = .next t :=
  ⟨_, rfl⟩

/-- RegisterAccess, HostBufferAccess: each access at the edges of its range, and an index beyond it. -/
theorem witness_host_access : ∀ m ∈ ([.regRead 20, .regRead 21, .regWrite 0 1, .regWrite 8 17, .txbufWrite 15 0, .txbufWrite 16 0,
    .txbufRead 15, .txbufRead 16, .rxbufRead 16, .rxbufRead 17] : List Input),
    (State.Quiet { inOp .idle with inputs := [m] }) := fun m _ => (witness_quiet .idle m).1

theorem witness_delivered : ∃ s : State, s.delivered = true ∧ s.rxlen ≤ s.build.maxPayload ∧ s.rxbuf.read s.rxlen = some 0x41 :=
  ⟨{ inOp .idle with delivered := true, rxlen := 1, rxbuf := [(0, 0x41), (1, 0x41)] }, by decide⟩

/-- The rules about every step, from Idle: a CMD write that OPEN, and one that WRITE, takes. -/
theorem witness_steps_from_idle :
    ∃ s t u v : State, step s = .next t ∧ step u = .next v ∧ s.Sequenced ∧ u.Sequenced ∧ s.op = .idle ∧ t.op = .openWait ∧
      u.op = .idle ∧ v.op = .writeWait ∧ s.pend.rst = false ∧ u.pend.rst = false ∧ s.inputs = [] ∧
      s.stat.bytesSent < 2 ^ s.build.cntW :=
  ⟨{ configured .initiator with pend := { Lines.clear with cmd := some 1 } }, _,
   { inOp .idle with pend := { Lines.clear with cmd := some 2 } }, _, rfl, rfl,
   by constructor <;> decide, by constructor <;> decide, by decide⟩

/-- The rules about every step, in an operation: OPEN, CLOSE with COLLECT, WRITE and READ that end with Ok. -/
theorem witness_steps_that_finish :
    ∃ s t u v w x y z : State, step s = .next t ∧ step u = .next v ∧ step w = .next x ∧ step y = .next z ∧
      s.Sequenced ∧ u.Sequenced ∧ w.Sequenced ∧ y.Sequenced ∧
      (s.op = .openWait ∧ s.openf = false ∧ t.openf = true ∧ t.done = true) ∧
      (u.op = .closeWait ∧ u.openf = true ∧ v.openf = false ∧ v.statsValid = true) ∧
      (w.op = .writeWait ∧ w.txbit ≠ x.txbit) ∧ (y.op = .readBody ∧ y.rxbit ≠ z.rxbit) :=
  ⟨offered .openWait { fsm := .awaitTrailingFlag, addr := A_TX, ctrl := UA } FLAG, _,
   { offered .closeWait { fsm := .awaitTrailingFlag, addr := A_TX, ctrl := UA } FLAG with collect := true }, _,
   offered .writeWait { fsm := .awaitTrailingFlag, addr := A_TX, ctrl := RR0 } FLAG, _,
   { offered .readBody { fsm := .done, addr := A_TX, ctrl := I0 } FLAG with body := { Body.entry with rxcnt := 1 } }, _,
   rfl, rfl, rfl, rfl, by constructor <;> decide, by constructor <;> decide, by constructor <;> decide,
   by constructor <;> decide, by decide⟩

/-- RetransmissionsIdentical: a REJ that goes on with the WRITE. -/
theorem witness_RetransmissionsIdentical : ∃ s t : State, step s = .next t ∧ s.Sequenced ∧ s.op = .writeWait ∧
    t.op = .writeWait ∧ t.tx = [0x5C, 0x01, 0x80, 0x81, 0x00, 0x5C] :=
  ⟨offered .writeWait { fsm := .awaitTrailingFlag, addr := A_TX, ctrl := REJ0 } FLAG, _, rfl,
   by constructor <;> decide, by decide⟩

theorem witness_HostWritesDoNotReachOperation : ∃ s u t : State, step s = .next t ∧ s.op ≠ .idle ∧ s.SameOperation u ∧
    s ≠ u :=
  ⟨offered .writeWait { fsm := .awaitTrailingFlag, addr := A_TX, ctrl := REJ0 } FLAG,
   { offered .writeWait { fsm := .awaitTrailingFlag, addr := A_TX, ctrl := REJ0 } FLAG with cfgTries := 0, txlen := 3 },
   _, rfl, by decide, rfl, by decide⟩

/-- OperationBound: a WRITE just accepted, over a tick. -/
theorem witness_OperationBound : ∃ s : State, s.Sequenced ∧ s.Budgeted ∧ s.InWidth ∧ s.op.timed = true ∧ s.retry = 0 ∧
    s.tmr = s.timeOut ∧ s.staysIn s.op 1 ∧ s.ticksIn 1 = 1 :=
  ⟨{ inOp .writeWait with inputs := [.instant false false [] false true none] }, by constructor <;> decide,
   by constructor <;> decide, by constructor <;> decide, rfl, rfl, rfl, ⟨rfl, rfl⟩, rfl⟩

/-- OperationBound, step by step: a tick. -/
theorem witness_OperationBound_step : ∃ s t : State, s.Sequenced ∧ s.Budgeted ∧ s.InWidth ∧ s.op.timed = true ∧
    step s = .next t ∧ t.op = s.op ∧ s.ticked = 1 :=
  ⟨{ inOp .writeWait with inputs := [.instant false false [] false true none] }, _, by constructor <;> decide,
   by constructor <;> decide, by constructor <;> decide, rfl, rfl, rfl, rfl⟩

end Sys2Proof.Tests
end

section
/-! PROOFS. Family 00_scope: the wire's control codes (O3), the latched configuration (O48) and the state after reset (O59). -/

namespace Sys2Proof.Machine

open Sys2Proof.Config

/-! ## The control codes of a sequence bit, and BCC1 (R13, R88, R93) -/

/-- R13: a sequence bit stands at bit 4 of RR and REJ and at bit 6 of I. -/
theorem codes_eq_or_shift (s : Bool) :
    rrCode s = 0x01 ||| (bitByte s <<< 4) ∧ rejCode s = 0x05 ||| (bitByte s <<< 4) ∧
      infoCode s = 0x80 ||| (bitByte s <<< 6) := by
  cases s <;> decide

@[simp] theorem seqOfReply_rrCode (s : Bool) : seqOfReply (rrCode s) = s := by cases s <;> rfl

@[simp] theorem seqOfReply_rejCode (s : Bool) : seqOfReply (rejCode s) = s := by cases s <;> rfl

@[simp] theorem seqOfInfo_infoCode (s : Bool) : seqOfInfo (infoCode s) = s := by cases s <;> rfl

/-- R93: BCC1 of a defined header is no byte that is stuffed. -/
theorem bcc1_ne_flag_and_ne_esc : ∀ a ∈ validAddresses, ∀ c ∈ controlCodes, bcc1 a c ≠ FLAG ∧ bcc1 a c ≠ ESC := by
  decide

/-- Settles O3: the sequence bit's functions by its two values, the 18 BCC1 values by computing them. -/
theorem wireCodeTables : Obligations.WireCodeTables := by
  unfold Obligations.WireCodeTables
  refine ⟨fun s => ?_, rfl, rfl, bcc1_ne_flag_and_ne_esc⟩
  obtain ⟨hrr, hrej, hinfo⟩ := codes_eq_or_shift s
  exact ⟨hrr, hrej, hinfo, seqOfReply_rrCode s, seqOfReply_rejCode s, seqOfInfo_infoCode s⟩

/-! ## The invariant rule of a received byte, in any state -/

/-- What a property must survive to be kept by every RxByte event: the receiver's registers changing, the count of the
byte, DEC_BODY, and each action an operation takes on an accepted frame or a closed body. -/
structure KeptByByteActions (P : State → Prop) : Prop where
  receiver : ∀ s r, P s → P { s with rcv := r }
  countReceived : ∀ s, P s → P s.countReceived
  handOver : ∀ s o, P s → P (s.handOver o)
  bodyStep : ∀ s x, P s → P (s.bodyStep x)
  sendUa : ∀ s, P s → P s.sendUa
  openDone : ∀ s, P s → P s.openDone
  closeDone : ∀ s, P s → P s.closeDone
  writeAcknowledged : ∀ s, P s → P s.writeAcknowledged
  writeRejected : ∀ s, P s → P s.writeRejected
  enterBody : ∀ s, P s → P s.enterBody
  readAccepted : ∀ s, P s → P s.readAccepted
  readRejected : ∀ s, P s → P s.readRejected

namespace KeptByByteActions

variable {P : State → Prop} (hP : KeptByByteActions P)
include hP

/-- Accepting a code keeps what the operation's action keeps (R136, R142). -/
theorem acceptCode {act : State → State} (hact : ∀ s, P s → P (act s)) (c : Byte) {s : State} (h : P s) :
    P (s.acceptCode c act) := by
  unfold State.acceptCode
  split_ifs
  · exact hact _ (hP.receiver s _ h)
  · exact hP.receiver s _ h
  · exact h

/-- The action of the code that CTRL holds (R136, R153, R158, R174, R175, R180). -/
theorem actOnCtrl {s : State} (h : P s) : P s.actOnCtrl := by
  have hset : P s.onSet := hP.acceptCode (fun u hu => hP.openDone _ (hP.sendUa u hu)) SET h
  have hdisc : P s.onDisc := hP.acceptCode (fun u hu => hP.closeDone _ (hP.sendUa u hu)) DISC h
  have hua : P s.onUa := by
    refine hP.acceptCode (fun u hu => ?_) UA h
    split_ifs
    · exact hP.closeDone u hu
    · exact hP.openDone u hu
  have hrr (b : Bool) : P (s.onRr b) := hP.acceptCode hP.writeAcknowledged (rrCode b) h
  have hrej (b : Bool) : P (s.onRej b) := hP.acceptCode hP.writeRejected (rejCode b) h
  have hinfo (b : Bool) : P (s.onInfo b) := hP.acceptCode hP.enterBody (infoCode b) h
  unfold State.actOnCtrl
  split_ifs
  · exact hset
  · exact hdisc
  · exact hua
  · exact hrr false
  · exact hrr true
  · exact hrej false
  · exact hrej true
  · exact hinfo false
  · exact hinfo true
  · exact hP.receiver s _ h

/-- A byte while the FSM runs (R130, R136). -/
theorem fsmByte (x : Byte) {s : State} (h : P s) : P (s.fsmByte x) := by
  have hstep : P (s.fsmStep x validAddresses s.expected) := hP.receiver s _ h
  unfold State.fsmByte
  simp only
  split_ifs
  · exact hP.actOnCtrl hstep
  · exact hstep

/-- A byte while OP is ReadBody (R118, R119, R181, R182). -/
theorem bodyByte (x : Byte) {s : State} (h : P s) : P (s.bodyByte x) := by
  unfold State.bodyByte State.decBody State.bodyClosed
  split_ifs
  · exact hP.readAccepted _ (hP.handOver s _ h)
  · exact hP.readRejected _ (hP.handOver s _ h)
  · exact hP.bodyStep s x h

/-- The rule: such a property is kept by every RxByte event, whatever the state (R228). -/
theorem rxByte (x : Byte) {s : State} (h : P s) : P (s.rxByte x) := by
  have hcount := hP.countReceived s h
  unfold State.rxByte
  split_ifs
  · exact h
  · exact hP.bodyByte x hcount
  · exact hP.fsmByte x hcount

end KeptByByteActions

/-! ## The configuration in force (R9, R24) -/

/-- The build parameters of R9 and the three latched registers of R24. -/
structure LatchedConfig where
  build : Params
  role : Role
  numTries : Nat
  timeOut : Nat

/-- The configuration in force. -/
def State.latchedConfig (s : State) : LatchedConfig := ⟨s.build, s.role, s.numTries, s.timeOut⟩

/-- The configuration that an accepted OPEN puts in force: the CFG registers (R24, R152). -/
def State.offeredConfig (s : State) : LatchedConfig := ⟨s.build, s.cfgRole, s.cfgTries, s.cfgTimeout⟩

/-- The configuration in force looks at four fields only; the field lemmas of Laws/State say which updates keep them. -/
theorem State.latchedConfig_congr {s t : State} (hb : t.build = s.build := by simp) (hr : t.role = s.role := by simp)
    (hn : t.numTries = s.numTries := by simp) (ht : t.timeOut = s.timeOut := by simp) :
    t.latchedConfig = s.latchedConfig := by
  simp [State.latchedConfig, hb, hr, hn, ht]

theorem State.openStart_latchedConfig (s : State) : s.openStart.latchedConfig = s.offeredConfig := by
  simp [State.latchedConfig, State.offeredConfig]

theorem State.writeRejected_latchedConfig (s : State) : s.writeRejected.latchedConfig = s.latchedConfig := by
  unfold State.writeRejected
  simp only
  split_ifs <;> exact State.latchedConfig_congr

/-- No action on a received byte touches the configuration in force. -/
theorem keptByByteActions_latchedConfig (c : LatchedConfig) : KeptByByteActions (fun s => s.latchedConfig = c) where
  receiver _ _ h := h
  countReceived _ h := (State.latchedConfig_congr).trans h
  handOver _ _ h := (State.latchedConfig_congr).trans h
  bodyStep _ _ h := (State.latchedConfig_congr rfl rfl rfl rfl).trans h
  sendUa _ h := (State.latchedConfig_congr).trans h
  openDone _ h := (State.latchedConfig_congr).trans h
  closeDone _ h := (State.latchedConfig_congr).trans h
  writeAcknowledged _ h := (State.latchedConfig_congr).trans h
  writeRejected s h := s.writeRejected_latchedConfig.trans h
  enterBody _ h := (State.latchedConfig_congr).trans h
  readAccepted _ h := (State.latchedConfig_congr).trans h
  readRejected _ h := (State.latchedConfig_congr).trans h

theorem State.rxByte_latchedConfig (x : Byte) (s : State) : (s.rxByte x).latchedConfig = s.latchedConfig :=
  (keptByByteActions_latchedConfig s.latchedConfig).rxByte x rfl

theorem State.receive_latchedConfig (bs : List Byte) (s : State) : (s.receive bs).latchedConfig = s.latchedConfig :=
  takeBytes_keeps (P := fun u => u.latchedConfig = s.latchedConfig) (fun _ _ h => h) (fun _ h => h)
    (fun u x h _ => (u.rxByte_latchedConfig x).trans h) _ _ rfl

theorem State.onTimeout_latchedConfig {s : State} (h : s.tarmed = true) :
    s.onTimeout.latchedConfig = s.latchedConfig := by
  have hcount : s.timedOut.latchedConfig = s.latchedConfig := by
    unfold State.timedOut
    exact State.latchedConfig_congr
  have hmove := onTimeout_moves h
  generalize s.onTimeout = t at hmove ⊢
  cases hmove with
  | unreached => exact State.latchedConfig_congr
  | openFails | writeFails | closeFails | openRetries | writeRetries | closeRetries =>
    exact (State.latchedConfig_congr).trans hcount

theorem State.onXportErr_latchedConfig (s : State) : s.onXportErr.latchedConfig = s.latchedConfig := by
  unfold State.onXportErr
  split <;> rfl

theorem State.regWrite_latchedConfig (n v : Nat) (s : State) : (s.regWrite n v).latchedConfig = s.latchedConfig := by
  unfold State.regWrite
  split <;> rfl

theorem State.instant_latchedConfig (rst xportErr : Bool) (arrive : List Byte) (rxValid tick : Bool)
    (cmd : Option Nat) (s : State) :
    (s.instant rst xportErr arrive rxValid tick cmd).latchedConfig = s.latchedConfig := by
  unfold State.instant
  cases tick <;> exact State.latchedConfig_congr

/-- A command leaves the configuration in force as it is, unless it is an OPEN that is accepted (R24, R152, R254). -/
theorem State.command_latchedConfig (w : Nat) (s : State) :
    (s.command w).latchedConfig = s.latchedConfig ∨
      s.op = .idle ∧ (s.command w).op = .openWait ∧ (s.command w).latchedConfig = s.offeredConfig := by
  have hmove := command_moves w s
  generalize s.command w = t at hmove ⊢
  cases hmove with
  | busy | refused | writes | reads | closes => exact .inl State.latchedConfig_congr
  | opens hop => exact .inr ⟨hop, by simp, s.openStart_latchedConfig⟩

/-- No move of the environment touches the configuration in force: the host reaches the CFG registers only (R24, R40). -/
theorem State.applyInput_latchedConfig {m : Input} {s t : State} (h : s.applyInput m = .next t) :
    t.latchedConfig = s.latchedConfig := by
  cases m with
  | instant rst xportErr arrive rxValid tick cmd =>
    cases h; exact State.instant_latchedConfig ..
  | regWrite n v =>
    unfold State.applyInput at h
    simp only at h
    split_ifs at h
    · cases h; rfl
    · cases h; exact s.regWrite_latchedConfig n v
  | regRead n => cases h; rfl
  | txbufWrite i b =>
    obtain ⟨_, _, hw, _⟩ := writeTxbuf_cases i b s
    cases h; rw [hw]; rfl
  | txbufRead i =>
    obtain ⟨_, _, hr, _⟩ := readTxbuf_cases i s
    cases h; rw [hr]; rfl
  | rxbufRead i =>
    obtain ⟨_, _, hr, _⟩ := readRxbuf_cases i s
    cases h; rw [hr]; rfl
  | txTake => cases h; rfl
  | line bs => cases h; exact s.receive_latchedConfig bs

/-- The three things a step can do to the configuration in force: keep it, reset it but for the build parameters, or load it
in an accepted OPEN (R24, R250, R254). -/
theorem step_latchedConfig {s t : State} (h : step s = .next t) :
    t.latchedConfig = s.latchedConfig ∨ s.pend.rst = true ∧ t.build = s.build ∨
      s.op = .idle ∧ t.op = .openWait ∧ t.latchedConfig = s.offeredConfig := by
  cases step_moves h with
  | reset hrst => exact .inr (.inl ⟨hrst, rfl⟩)
  | xportErr => exact .inl (State.onXportErr_latchedConfig _)
  | rxByte x rest => exact .inl (State.rxByte_latchedConfig x _)
  | timeout harmed => exact .inl (State.onTimeout_latchedConfig harmed)
  | command w => exact (State.command_latchedConfig w _).imp_right .inr
  | wait => exact .inl rfl
  | line bs => exact .inl (State.receive_latchedConfig bs _)
  | input m rest _ _ ht => exact .inl ((State.applyInput_latchedConfig ht).trans State.latchedConfig_congr)

/-- Settles O48, from what a step can do to the configuration in force. -/
theorem configurationLatched : Obligations.ConfigurationLatched := by
  unfold Obligations.ConfigurationLatched
  intro s t h
  rcases step_latchedConfig h with hkeep | ⟨hrst, hbuild⟩ | ⟨hidle, hopen, hload⟩
  · obtain ⟨hb, hr, hn, ht⟩ := LatchedConfig.mk.inj hkeep
    exact ⟨hb, fun _ => .inl ⟨hr, hn, ht⟩⟩
  · exact ⟨hbuild, fun hno => absurd hrst (by simp [hno])⟩
  · obtain ⟨hb, hr, hn, ht⟩ := LatchedConfig.mk.inj hload
    exact ⟨hb, fun _ => .inr ⟨hidle, hopen, hr, hn, ht⟩⟩

/-! ## The state after reset meets the invariants (R45, R250) -/

theorem reset_sequenced : State.reset.Sequenced := by constructor <;> decide

theorem reset_budgeted : State.reset.Budgeted := by constructor <;> decide

theorem reset_inWidth : State.reset.InWidth := by constructor <;> decide

/-- The buffers are empty; OP is Idle and nothing is delivered, so no byte is promised to be readable. -/
theorem reset_buffered : State.reset.Buffered where
  txbufForm := rfl
  txbufRange := rfl
  rxbufForm := rfl
  rxbufRange := rfl
  framebufForm := rfl
  framebufRange := rfl
  rxcnt := Nat.zero_le _
  rxovf := nofun
  rxlen := Nat.zero_le _
  framelen := Nat.zero_le _
  stored := nofun
  payloadHeld := nofun

/-- No WRITE is in progress. -/
theorem reset_holdsFrame : State.reset.HoldsFrame := nofun

theorem reset_inParity : State.reset.InParity := by constructor <;> decide

theorem examples_ok : Params.examples.ok = true := rfl

/-- Settles O59, invariant by invariant. -/
theorem resetMeetsInvariants : Obligations.ResetMeetsInvariants := by
  unfold Obligations.ResetMeetsInvariants
  exact ⟨reset_sequenced, reset_budgeted, reset_inWidth, reset_buffered, reset_holdsFrame, reset_inParity, examples_ok⟩

end Sys2Proof.Machine
end

section
/-! PROOFS. Family 10_state, noninterference (O51): what the host writes for a later command commutes with every event of the operation in progress. -/

namespace Sys2Proof.Machine

open Sys2Proof.Config

/-- What the host writes for a later command, and the word it last read (R73, R254, R267). -/
structure HostSide where
  cfgRole : Role
  cfgTries : Nat
  cfgTimeout : Nat
  txlen : Nat
  txbuf : Memory
  rdata : Nat

/-- The state with another host's side. -/
def State.withHost (h : HostSide) (s : State) : State :=
  { s with cfgRole := h.cfgRole, cfgTries := h.cfgTries, cfgTimeout := h.cfgTimeout, txlen := h.txlen,
           txbuf := h.txbuf, rdata := h.rdata }

theorem State.sameOperation_withHost (h : HostSide) (s : State) : s.SameOperation (s.withHost h) := rfl

theorem State.sameOperation_ite {c : Prop} [Decidable c] {s t u v : State} (ht : s.SameOperation t)
    (he : u.SameOperation v) : (if c then s else u).SameOperation (if c then t else v) := by
  split_ifs
  · exact ht
  · exact he

theorem State.SameOperation.exists_withHost {s u : State} (h : s.SameOperation u) : ∃ w, u = s.withHost w :=
  ⟨⟨u.cfgRole, u.cfgTries, u.cfgTimeout, u.txlen, u.txbuf, u.rdata⟩, h⟩

/-- An update that neither reads nor writes the host's side. -/
def IgnoresHost (f : State → State) : Prop := ∀ (h : HostSide) (s : State), f (s.withHost h) = (f s).withHost h

namespace IgnoresHost

theorem sameOperation {f : State → State} (hf : IgnoresHost f) (h : HostSide) (s : State) :
    (f s).SameOperation (f (s.withHost h)) := by
  rw [hf h s]
  exact State.sameOperation_withHost h (f s)

/-- A branch on a condition that does not look at the host's side. -/
theorem ite {c : State → Prop} [DecidablePred c] {f g : State → State} (hc : ∀ h s, c (State.withHost h s) = c s)
    (hf : IgnoresHost f) (hg : IgnoresHost g) : IgnoresHost (fun s => if c s then f s else g s) := by
  intro h s
  by_cases hs : c s
  · simp only [hc, hs, if_true, hf h s]
  · simp only [hc, hs, if_false, hg h s]

theorem comp {f g : State → State} (hf : IgnoresHost f) (hg : IgnoresHost g) : IgnoresHost (fun s => f (g s)) := by
  intro h s
  show f (g (s.withHost h)) = (f (g s)).withHost h
  rw [hg h s, hf h (g s)]

/-! ## The operations' actions -/

theorem sendSet : IgnoresHost State.sendSet := by
  intro h s
  cases hr : s.role <;> simp [State.sendSet, State.withHost, hr, State.txFrame, State.bumped]

theorem sendDisc : IgnoresHost State.sendDisc := by
  intro h s
  cases hr : s.role <;> simp [State.sendDisc, State.withHost, hr, State.txFrame, State.bumped]

theorem reportStats : IgnoresHost State.reportStats := ite (fun _ _ => rfl) (fun _ _ => rfl) (fun _ _ => rfl)

theorem openDone : IgnoresHost State.openDone := fun _ _ => rfl

theorem closeDone : IgnoresHost State.closeDone :=
  comp (f := State.finish .ok) (fun _ _ => rfl) (comp reportStats (g := fun s => { s.disarmTimer with openf := false })
    (fun _ _ => rfl))

theorem awaitAnswer : IgnoresHost State.awaitAnswer := fun _ _ => rfl

theorem resend : IgnoresHost State.resend := fun _ _ => rfl

theorem writeRejected : IgnoresHost State.writeRejected :=
  comp (f := fun s => if s.exhausted then s.disarmTimer.finish .retriesExhausted else s.resend)
    (ite (fun _ _ => rfl) (fun _ _ => rfl) resend) (g := fun s => s.countRejReceived.bumpRetry) (fun _ _ => rfl)

theorem bodyClosed : IgnoresHost State.bodyClosed := ite (fun _ _ => rfl) (fun _ _ => rfl) (fun _ _ => rfl)

theorem acceptCode (c : Byte) {act : State → State} (hact : IgnoresHost act) :
    IgnoresHost (State.acceptCode c act) :=
  ite (fun _ _ => rfl) (comp hact (fun _ _ => rfl)) (ite (fun _ _ => rfl) (fun _ _ => rfl) (fun _ _ => rfl))

/-- The action of the code that CTRL holds (R136). -/
theorem actOnCtrl : IgnoresHost State.actOnCtrl :=
  ite (fun _ _ => rfl) (acceptCode SET (fun _ _ => rfl))
    (ite (fun _ _ => rfl) (acceptCode DISC (comp closeDone (fun _ _ => rfl)))
    (ite (fun _ _ => rfl) (acceptCode UA (ite (fun _ _ => rfl) closeDone openDone))
    (ite (fun _ _ => rfl) (acceptCode _ (fun _ _ => rfl))
    (ite (fun _ _ => rfl) (acceptCode _ (fun _ _ => rfl))
    (ite (fun _ _ => rfl) (acceptCode _ writeRejected)
    (ite (fun _ _ => rfl) (acceptCode _ writeRejected)
    (ite (fun _ _ => rfl) (acceptCode _ (fun _ _ => rfl))
    (ite (fun _ _ => rfl) (acceptCode _ (fun _ _ => rfl)) (fun _ _ => rfl)))))))))

/-! ## The events (R228) -/

theorem fsmByte (x : Byte) : IgnoresHost (State.fsmByte x) :=
  ite (c := fun s => s.rcv.fsm ≠ .done ∧ (s.fsmStep x validAddresses s.expected).rcv.fsm = .done) (fun _ _ => rfl)
    (comp actOnCtrl (g := fun s => s.fsmStep x validAddresses s.expected) (fun _ _ => rfl)) (fun _ _ => rfl)

theorem decBody (x : Byte) : IgnoresHost (State.decBody x) :=
  ite (c := fun _ => x = FLAG) (fun _ _ => rfl) (fun _ _ => rfl) (fun _ _ => rfl)

theorem bodyByte (x : Byte) : IgnoresHost (State.bodyByte x) :=
  ite (c := fun _ => x = FLAG) (fun _ _ => rfl) (comp bodyClosed (decBody x)) (decBody x)

theorem rxByte (x : Byte) : IgnoresHost (State.rxByte x) :=
  ite (fun _ _ => rfl) (fun _ _ => rfl)
    (ite (fun _ _ => rfl) (comp (bodyByte x) (fun _ _ => rfl)) (comp (fsmByte x) (fun _ _ => rfl)))

theorem takeBytes : ∀ n, IgnoresHost (State.takeBytes n)
  | 0 => fun _ _ => rfl
  | n + 1 => ite (fun _ _ => rfl) (fun _ _ => rfl) fun h s => by
      show (match s.rx with
          | [] => s.withHost h
          | x :: rest => State.takeBytes n (({ s.withHost h with rx := rest }).dropPulses.rxByte x)) =
        State.withHost h (match s.rx with
          | [] => s
          | x :: rest => State.takeBytes n (({ s with rx := rest }).dropPulses.rxByte x))
      split
      · rfl
      · next x rest _ =>
        exact (congrArg _ (rxByte x h ({ s with rx := rest }).dropPulses)).trans (takeBytes n h _)

theorem receive (bs : List Byte) : IgnoresHost (State.receive bs) := fun h s =>
  takeBytes (s.rx.length + bs.length) h { s with rx := s.rx ++ bs }

theorem expired {fail retry : State → State} (hf : IgnoresHost fail) (hr : IgnoresHost retry) :
    IgnoresHost fun s =>
      if s.expire.countTimeout.bumpRetry.exhausted then fail s.expire.countTimeout.bumpRetry
      else retry s.expire.countTimeout.bumpRetry :=
  comp (f := fun s => if s.exhausted then fail s else retry s) (ite (fun _ _ => rfl) hf hr)
    (g := fun s => s.expire.countTimeout.bumpRetry) (fun _ _ => rfl)

theorem onTimeout : IgnoresHost State.onTimeout := by
  refine ite (fun _ _ => rfl) (fun h s => ?_) (fun _ _ => rfl)
  have hopen : IgnoresHost fun s => s.expire.openTimeout := expired (fun _ _ => rfl) (comp awaitAnswer sendSet)
  have hwrite : IgnoresHost fun s => s.expire.writeTimeout := expired (fun _ _ => rfl) resend
  have hclose : IgnoresHost fun s => s.expire.closeTimeout :=
    expired (comp (f := State.finish .retriesExhausted) (fun _ _ => rfl)
      (comp reportStats (g := fun s => { s with openf := false }) (fun _ _ => rfl))) (comp awaitAnswer sendDisc)
  cases hop : s.op <;> simp only [show (s.withHost h).op = s.op from rfl, hop]
  case openWait => exact hopen h s
  case writeWait => exact hwrite h s
  case closeWait => exact hclose h s
  all_goals rfl

theorem onXportErr : IgnoresHost State.onXportErr := by
  intro h s
  cases hop : s.op <;> simp [State.onXportErr, State.withHost, hop, State.finish]

theorem instant (rst xportErr : Bool) (arrive : List Byte) (rxValid tick : Bool) (cmd : Option Nat) :
    IgnoresHost (State.instant rst xportErr arrive rxValid tick cmd) :=
  have htick : IgnoresHost State.tick := ite (fun _ _ => rfl) (fun _ _ => rfl) (fun _ _ => rfl)
  comp (f := fun s => { s with pend := ⟨rst, xportErr, rxValid && s.rxReady, s.latchCmd cmd⟩ }) (fun _ _ => rfl)
    (comp (f := fun s => if tick then s.tick else s) (ite (fun _ _ => rfl) htick (fun _ _ => rfl))
      (g := fun s => { s with rx := s.rx ++ arrive }) (fun _ _ => rfl))

end IgnoresHost

/-! ## The environment's moves, and the step -/

/-- The host's write of a register other than CMD as one record: each RW register takes its field (R40). -/
theorem State.regWrite_eq (n v : Nat) (s : State) : s.regWrite n v = { s with
    cfgRole := if n = 1 then (if v.testBit 0 then .responder else .initiator) else s.cfgRole
    cfgTries := if n = 2 then v % 2 ^ s.build.triesW else s.cfgTries
    cfgTimeout := if n = 3 then v % 2 ^ s.build.timerW else s.cfgTimeout
    txlen := if n = 8 then v else s.txlen } := by
  have hbit : (if v % 2 = 0 then Role.initiator else Role.responder) =
      if v.testBit 0 then .responder else .initiator := by
    rw [Nat.testBit_zero]
    rcases Nat.mod_two_eq_zero_or_one v with h | h <;> simp [h]
  unfold State.regWrite
  split <;> simp_all

/-- A move of the environment treats two hosts alike: it reads and writes the host's side and the read port, or what it
changes does not depend on them. -/
theorem applyInput_sameOperation {m : Input} (h : HostSide) {s t : State}
    (ht : s.applyInput m = .next t) : ∃ v, (s.withHost h).applyInput m = .next v ∧ t.SameOperation v := by
  cases m with
  | line bs => cases ht; exact ⟨_, rfl, (IgnoresHost.receive bs).sameOperation h s⟩
  | instant rst xportErr arrive rxValid tick cmd =>
    cases ht
    exact ⟨_, rfl, (IgnoresHost.instant rst xportErr arrive rxValid tick cmd).sameOperation h s⟩
  | regWrite n v =>
    unfold State.applyInput at ht ⊢
    simp only at ht ⊢
    split_ifs at ht ⊢
    · cases ht; exact ⟨_, rfl, rfl⟩
    · cases ht; refine ⟨_, rfl, ?_⟩
      rw [State.regWrite_eq, State.regWrite_eq]; rfl
  | regRead n => cases ht; exact ⟨_, rfl, rfl⟩
  | txbufWrite i b => cases ht; exact ⟨_, rfl, State.sameOperation_ite rfl rfl⟩
  | txbufRead i => cases ht; exact ⟨_, rfl, State.sameOperation_ite rfl rfl⟩
  | rxbufRead i => cases ht; exact ⟨_, rfl, State.sameOperation_ite rfl rfl⟩
  | txTake => cases ht; exact ⟨_, rfl, rfl⟩

/-- A word on the line is received as bytes, which the word alone determines: those of the frame it decodes to, or its own
(log 15). -/
theorem exists_nextInput_line (bs : List Byte) : ∃ cs : List Byte, ∀ (s : State) (rest : List Input),
    s.inputs = .line bs :: rest →
      s.nextInput = .next (State.receive cs { s with inputs := rest, pend := Lines.clear }) := by
  unfold State.nextInput
  cases hd : decodeFrame bs with
  | error e => exact ⟨bs, fun s rest hi => by simp [hi, hd]⟩
  | ok r =>
    obtain ⟨i, after⟩ := r
    cases after with
    | cons x xs => exact ⟨bs, fun s rest hi => by simp [hi, hd]⟩
    | nil =>
      obtain ⟨a, c, rfl⟩ | ⟨a, b, p, rfl⟩ := decodeFrame_shape hd
      · exact ⟨encCtrl a c, fun s rest hi => by simp [hi, hd, exec, execCtrlFrame]⟩
      · exact ⟨encInfo a b p, fun s rest hi => by simp [hi, hd, exec, execInfoFrame]⟩

theorem nextInput_sameOperation (h : HostSide) {s t : State} (ht : s.nextInput = .next t) :
    ∃ v, (s.withHost h).nextInput = .next v ∧ t.SameOperation v := by
  cases hi : s.inputs with
  | nil =>
    have hwait : ∀ u : State, u.inputs = [] → u.nextInput = .next u := fun u hu => by simp [State.nextInput, hu]
    rw [hwait s hi] at ht
    cases ht
    exact ⟨_, hwait (s.withHost h) hi, rfl⟩
  | cons m rest =>
    by_cases hm : ∃ bs, m = .line bs
    · obtain ⟨bs, rfl⟩ := hm
      obtain ⟨cs, hcs⟩ := exists_nextInput_line bs
      rw [hcs s rest hi] at ht
      cases ht
      exact ⟨_, hcs (s.withHost h) rest hi, (IgnoresHost.receive cs).sameOperation h _⟩
    · have hmove : ∀ u : State, u.inputs = m :: rest →
          u.nextInput = State.applyInput m { u with inputs := rest, pend := Lines.clear } := fun u hu => by
        cases m with
        | line bs => exact absurd ⟨bs, rfl⟩ hm
        | _ => simp [State.nextInput, hu]
      rw [hmove s hi] at ht
      rw [hmove (s.withHost h) hi]
      exact applyInput_sameOperation h ht

/-- An event of the operation in progress treats two hosts alike (R237: no command among them is taken). -/
theorem takeEvent_sameOperation (e : Event) (h : HostSide) {s t : State} (hop : s.op ≠ .idle)
    (ht : s.takeEvent e = .next t) : ∃ v, (s.withHost h).takeEvent e = .next v ∧ t.SameOperation v := by
  cases e with
  | reset => cases ht; exact ⟨_, rfl, rfl⟩
  | xportErr => cases ht; exact ⟨_, rfl, IgnoresHost.onXportErr.sameOperation h _⟩
  | timeout => cases ht; exact ⟨_, rfl, IgnoresHost.onTimeout.sameOperation h _⟩
  | rxByte x =>
    rw [takeEvent_rxByte x s hop] at ht
    cases ht
    exact ⟨_, takeEvent_rxByte x (s.withHost h) hop, (IgnoresHost.rxByte x).sameOperation h _⟩
  | cmd w =>
    have hcmd : ∀ u : State, u.op ≠ .idle →
        u.takeEvent (.cmd w) = .next { u with pend := { u.pend with cmd := none } } := fun u hu => by
        rw [takeEvent_other u (by simp)]
        exact (exec_decodeCommand w _).trans (by simp [State.command, State.busy, State.consume, hu])
    rw [hcmd s hop] at ht
    cases ht
    exact ⟨_, hcmd (s.withHost h) hop, rfl⟩

/-- Settles O51: the event taken next does not depend on the host's side, and neither it nor the environment's move carries
that side into the rest of the state. -/
theorem hostWritesDoNotReachOperation : Obligations.HostWritesDoNotReachOperation := by
  unfold Obligations.HostWritesDoNotReachOperation
  intro s u t hop hsame ht
  obtain ⟨h, rfl⟩ := hsame.exists_withHost
  unfold step at ht ⊢
  have hready : (s.withHost h).dropPulses.readyEvent = s.dropPulses.readyEvent := rfl
  simp only [hready] at ht ⊢
  cases he : s.dropPulses.readyEvent with
  | some e => rw [he] at ht; exact takeEvent_sameOperation e h (by simpa using hop) ht
  | none => rw [he] at ht; exact nextInput_sameOperation h ht

end Sys2Proof.Machine
end

section
/-! PROOFS. Family 10_state, the invariants: the environment's moves and the refused retransmission said once, then Sequenced (O53), Budgeted (O54), Buffered (O56) and InWidth (O55), each kept by every step. -/

namespace Sys2Proof.Machine

open Sys2Proof.Config

/-! ## What the environment's moves and a REJ can do, said once -/

/-- One instant as one record: the bytes that arrive, the tick, and the lines raised (R63, R185, R237). -/
theorem State.instant_eq (rst xportErr : Bool) (arrive : List Byte) (rxValid tick : Bool) (cmd : Option Nat)
    (s : State) : s.instant rst xportErr arrive rxValid tick cmd = { s with
      rx := s.rx ++ arrive
      tmr := if tick = true ∧ s.tarmed = true then s.tmr - 1 else s.tmr
      pend := { rst := rst, xportErr := xportErr, rxValid := rxValid && s.rxReady, cmd := s.latchCmd cmd } } := by
  unfold State.instant State.tick
  cases tick
  · rfl
  · cases ha : s.tarmed <;> simp [State.latchCmd, State.rxReady, State.busy]

theorem State.latchCmd_idle {w : Option Nat} {s : State} (h : s.latchCmd w ≠ none) : s.op = .idle := by
  unfold State.latchCmd at h
  split at h
  · exact absurd rfl h
  · next hb => simpa [State.busy] using hb

/-- What a move of the environment other than a whole frame can change (R40, R62 to R65, R228; logs 6, 8). -/
inductive State.InputMoves (s : State) : State → Prop where
  | instant (rx : List Byte) (tmr : Nat) (pend : Lines) (htmr : tmr ≤ s.tmr)
      (hcmd : pend.cmd ≠ none → s.op = .idle) : s.InputMoves { s with rx := rx, tmr := tmr, pend := pend }
  | regWrite (role : Role) (tries timeout len : Nat)
      (htries : tries = s.cfgTries ∨ tries < 2 ^ s.build.triesW)
      (htime : timeout = s.cfgTimeout ∨ timeout < 2 ^ s.build.timerW) :
      s.InputMoves { s with cfgRole := role, cfgTries := tries, cfgTimeout := timeout, txlen := len }
  | txbufWrite (m : Memory) (n : Nat)
      (hm : m = s.txbuf ∨ ∃ k b, k < s.build.maxPayload ∧ m = s.txbuf.write k b) :
      s.InputMoves { s with txbuf := m, fresh := n }
  | read (v n : Nat) : s.InputMoves { s with rdata := v, fresh := n }
  | txTake : s.InputMoves { s with tx := s.tx.tail }

theorem regWrite_moves (n v : Nat) (s : State) : s.InputMoves (s.regWrite n v) := by
  rw [State.regWrite_eq]
  refine .regWrite _ _ _ _ ?_ ?_
  all_goals
    split_ifs
    · exact .inr (Nat.mod_lt _ (Nat.two_pow_pos _))
    · exact .inl rfl

theorem instant_moves (rst xportErr : Bool) (arrive : List Byte) (rxValid tick : Bool) (cmd : Option Nat) (s : State) :
    s.InputMoves (s.instant rst xportErr arrive rxValid tick cmd) := by
  rw [State.instant_eq]
  exact .instant _ _ _ (by split_ifs <;> omega) State.latchCmd_idle

/-- Inversion of a move of the environment. -/
theorem applyInput_moves {m : Input} {s t : State} (hm : ∀ bs, m ≠ .line bs) (h : s.applyInput m = .next t) :
    s.InputMoves t := by
  cases m with
  | line bs => exact absurd rfl (hm bs)
  | instant rst xportErr arrive rxValid tick cmd => cases h; exact instant_moves ..
  | regWrite n v =>
    unfold State.applyInput at h
    simp only at h
    split_ifs at h
    · cases h; exact instant_moves ..
    · cases h; exact regWrite_moves n v s
  | regRead n => cases h; exact .read _ s.fresh
  | txbufWrite i b =>
    obtain ⟨m, n, hw, hcase, -⟩ := writeTxbuf_cases i b s
    cases h
    rw [hw]
    exact .txbufWrite m n (hcase.imp_right fun ⟨k, hk⟩ => ⟨k, b, hk⟩)
  | txbufRead i =>
    obtain ⟨v, n, hr, -⟩ := readTxbuf_cases i s
    cases h
    rw [hr]; exact .read v n
  | rxbufRead i =>
    obtain ⟨v, n, hr, -⟩ := readRxbuf_cases i s
    cases h
    rw [hr]; exact .read v n
  | txTake => cases h; exact .txTake

/-- What a transport error does: nothing while OP is Idle, else the operation ends (R228, R232). -/
theorem onXportErr_cases (s : State) :
    s.op = .idle ∧ s.onXportErr = s ∨
      s.op ≠ .idle ∧ s.onXportErr =
        State.finish .transportError { s with openf := s.openf && !decide (s.op = .closeWait) } := by
  unfold State.onXportErr
  cases hop : s.op <;> simp [State.finish]

theorem State.exhausted_eq_false_iff (s : State) : s.exhausted = false ↔ s.retry ≤ s.numTries := by
  simp [State.exhausted]

/-- An accepted REJ is counted, and consumes a retry (R175, R188, R204). -/
def State.turnedDown (s : State) : State := s.countRejReceived.bumpRetry

/-! One lemma per field for the state after FSM_STEP and the two in which a retry is compared (R130, R188). -/

section
variable (s : State)

@[simp] theorem State.stepped_op (x : Byte) : (s.stepped x).op = s.op := (rfl)
@[simp] theorem State.stepped_txbit (x : Byte) : (s.stepped x).txbit = s.txbit := (rfl)
@[simp] theorem State.stepped_rxbit (x : Byte) : (s.stepped x).rxbit = s.rxbit := (rfl)
@[simp] theorem State.stepped_openf (x : Byte) : (s.stepped x).openf = s.openf := (rfl)
@[simp] theorem State.stepped_result (x : Byte) : (s.stepped x).result = s.result := (rfl)
@[simp] theorem State.stepped_pend (x : Byte) : (s.stepped x).pend = s.pend := (rfl)
@[simp] theorem State.stepped_collect (x : Byte) : (s.stepped x).collect = s.collect := (rfl)
@[simp] theorem State.stepped_done (x : Byte) : (s.stepped x).done = s.done := (rfl)
@[simp] theorem State.stepped_statsValid (x : Byte) : (s.stepped x).statsValid = s.statsValid := (rfl)
@[simp] theorem State.stepped_numTries (x : Byte) : (s.stepped x).numTries = s.numTries := (rfl)
@[simp] theorem State.stepped_timeOut (x : Byte) : (s.stepped x).timeOut = s.timeOut := (rfl)
@[simp] theorem State.stepped_build (x : Byte) : (s.stepped x).build = s.build := (rfl)
@[simp] theorem State.stepped_body (x : Byte) : (s.stepped x).body = s.body := (rfl)
@[simp] theorem State.stepped_rxlen (x : Byte) : (s.stepped x).rxlen = s.rxlen := (rfl)
@[simp] theorem State.stepped_framelen (x : Byte) : (s.stepped x).framelen = s.framelen := (rfl)
@[simp] theorem State.stepped_txbuf (x : Byte) : (s.stepped x).txbuf = s.txbuf := (rfl)
@[simp] theorem State.stepped_rxbuf (x : Byte) : (s.stepped x).rxbuf = s.rxbuf := (rfl)
@[simp] theorem State.stepped_framebuf (x : Byte) : (s.stepped x).framebuf = s.framebuf := (rfl)
@[simp] theorem State.stepped_delivered (x : Byte) : (s.stepped x).delivered = s.delivered := (rfl)
@[simp] theorem State.stepped_tarmed (x : Byte) : (s.stepped x).tarmed = s.tarmed := (rfl)
@[simp] theorem State.stepped_tmr (x : Byte) : (s.stepped x).tmr = s.tmr := (rfl)
@[simp] theorem State.stepped_retry (x : Byte) : (s.stepped x).retry = s.retry := (rfl)

@[simp] theorem State.timedOut_op : s.timedOut.op = s.op := (rfl)
@[simp] theorem State.timedOut_rcv : s.timedOut.rcv = s.rcv := (rfl)
@[simp] theorem State.timedOut_txbit : s.timedOut.txbit = s.txbit := (rfl)
@[simp] theorem State.timedOut_rxbit : s.timedOut.rxbit = s.rxbit := (rfl)
@[simp] theorem State.timedOut_openf : s.timedOut.openf = s.openf := (rfl)
@[simp] theorem State.timedOut_result : s.timedOut.result = s.result := (rfl)
@[simp] theorem State.timedOut_pend : s.timedOut.pend = s.pend := (rfl)
@[simp] theorem State.timedOut_collect : s.timedOut.collect = s.collect := (rfl)
@[simp] theorem State.timedOut_done : s.timedOut.done = s.done := (rfl)
@[simp] theorem State.timedOut_statsValid : s.timedOut.statsValid = s.statsValid := (rfl)
@[simp] theorem State.timedOut_numTries : s.timedOut.numTries = s.numTries := (rfl)
@[simp] theorem State.timedOut_timeOut : s.timedOut.timeOut = s.timeOut := (rfl)
@[simp] theorem State.timedOut_build : s.timedOut.build = s.build := (rfl)
@[simp] theorem State.timedOut_body : s.timedOut.body = s.body := (rfl)
@[simp] theorem State.timedOut_rxlen : s.timedOut.rxlen = s.rxlen := (rfl)
@[simp] theorem State.timedOut_framelen : s.timedOut.framelen = s.framelen := (rfl)
@[simp] theorem State.timedOut_txbuf : s.timedOut.txbuf = s.txbuf := (rfl)
@[simp] theorem State.timedOut_rxbuf : s.timedOut.rxbuf = s.rxbuf := (rfl)
@[simp] theorem State.timedOut_framebuf : s.timedOut.framebuf = s.framebuf := (rfl)
@[simp] theorem State.timedOut_delivered : s.timedOut.delivered = s.delivered := (rfl)
@[simp] theorem State.timedOut_retry : s.timedOut.retry = (s.retry + 1) % 2 ^ (s.build.triesW + 1) := (rfl)
@[simp] theorem State.timedOut_tmr : s.timedOut.tmr = 0 := (rfl)

@[simp] theorem State.turnedDown_op : s.turnedDown.op = s.op := (rfl)
@[simp] theorem State.turnedDown_rcv : s.turnedDown.rcv = s.rcv := (rfl)
@[simp] theorem State.turnedDown_txbit : s.turnedDown.txbit = s.txbit := (rfl)
@[simp] theorem State.turnedDown_rxbit : s.turnedDown.rxbit = s.rxbit := (rfl)
@[simp] theorem State.turnedDown_openf : s.turnedDown.openf = s.openf := (rfl)
@[simp] theorem State.turnedDown_result : s.turnedDown.result = s.result := (rfl)
@[simp] theorem State.turnedDown_pend : s.turnedDown.pend = s.pend := (rfl)
@[simp] theorem State.turnedDown_collect : s.turnedDown.collect = s.collect := (rfl)
@[simp] theorem State.turnedDown_done : s.turnedDown.done = s.done := (rfl)
@[simp] theorem State.turnedDown_statsValid : s.turnedDown.statsValid = s.statsValid := (rfl)
@[simp] theorem State.turnedDown_numTries : s.turnedDown.numTries = s.numTries := (rfl)
@[simp] theorem State.turnedDown_timeOut : s.turnedDown.timeOut = s.timeOut := (rfl)
@[simp] theorem State.turnedDown_build : s.turnedDown.build = s.build := (rfl)
@[simp] theorem State.turnedDown_body : s.turnedDown.body = s.body := (rfl)
@[simp] theorem State.turnedDown_rxlen : s.turnedDown.rxlen = s.rxlen := (rfl)
@[simp] theorem State.turnedDown_framelen : s.turnedDown.framelen = s.framelen := (rfl)
@[simp] theorem State.turnedDown_txbuf : s.turnedDown.txbuf = s.txbuf := (rfl)
@[simp] theorem State.turnedDown_rxbuf : s.turnedDown.rxbuf = s.rxbuf := (rfl)
@[simp] theorem State.turnedDown_framebuf : s.turnedDown.framebuf = s.framebuf := (rfl)
@[simp] theorem State.turnedDown_delivered : s.turnedDown.delivered = s.delivered := (rfl)
@[simp] theorem State.turnedDown_retry : s.turnedDown.retry = (s.retry + 1) % 2 ^ (s.build.triesW + 1) := (rfl)
@[simp] theorem State.turnedDown_tmr : s.turnedDown.tmr = s.tmr := (rfl)

end

/-- What WRITE does on an accepted REJ: it fails, or sends its frame again (R175, R188). -/
theorem writeRejected_cases (s : State) :
    s.writeRejected = s.turnedDown.disarmTimer.finish .retriesExhausted ∨
      s.turnedDown.exhausted = false ∧ s.writeRejected = s.turnedDown.resend := by
  unfold State.writeRejected
  show (if s.turnedDown.exhausted then _ else _) = _ ∨ _ ∧ (if s.turnedDown.exhausted then _ else _) = _
  cases hx : s.turnedDown.exhausted
  · exact .inr ⟨rfl, rfl⟩
  · exact .inl rfl

/-! ## The sequencing registers (R26 to R33, R39, R136, R142, R236, R237) -/

/-- R142: what the FSM has recorded of the header so far is acceptable. -/
structure Receiver.Records (va ec : List Byte) (r : Receiver) : Prop where
  addr : r.fsm = .awaitControl ∨ r.fsm = .awaitBcc1 ∨ r.fsm = .awaitTrailingFlag → r.addr ∈ va
  ctrl : r.fsm = .awaitBcc1 ∨ r.fsm = .awaitTrailingFlag → r.ctrl ∈ ec
  trailing : r.fsm = .awaitTrailingFlag → isInfo r.ctrl = false

theorem records_of_empty {va ec : List Byte} {r : Receiver}
    (h : r.fsm = .awaitFlag ∨ r.fsm = .awaitAddress ∨ r.fsm = .done) : r.Records va ec := by
  rcases h with h | h | h <;> constructor <;> simp [h]

/-- R131 to R135: a transition records only acceptable bytes. -/
theorem fsmNext_records {va ec : List Byte} {r : Receiver} (x : Byte) (h : r.Records va ec) :
    (fsmNext va ec x r).Records va ec := by
  have hflag : (if x = FLAG then { r with fsm := .awaitAddress } else { r with fsm := .awaitFlag }).Records va ec := by
    split_ifs
    · exact records_of_empty (.inr (.inl rfl))
    · exact records_of_empty (.inl rfl)
  unfold fsmNext
  cases hr : r.fsm with
  | awaitFlag => exact hflag
  | awaitAddress =>
    dsimp only
    split_ifs with hx
    · exact ⟨fun _ => hx, by simp, by simp⟩
    · exact records_of_empty (.inr (.inl rfl))
    · exact records_of_empty (.inl rfl)
  | awaitControl =>
    dsimp only
    split_ifs with hx
    · exact ⟨fun _ => h.addr (.inl hr), fun _ => hx, by simp⟩
    · exact records_of_empty (.inr (.inl rfl))
    · exact records_of_empty (.inl rfl)
  | awaitBcc1 =>
    dsimp only
    split_ifs with hx hi
    · exact records_of_empty (.inr (.inr rfl))
    · exact ⟨fun _ => h.addr (.inr (.inl hr)), fun _ => h.ctrl (.inl hr), fun _ => by simpa using hi⟩
    · exact records_of_empty (.inr (.inl rfl))
    · exact records_of_empty (.inl rfl)
  | awaitTrailingFlag =>
    dsimp only
    split_ifs
    · exact records_of_empty (.inr (.inr rfl))
    · exact records_of_empty (.inl rfl)
  | done => exact records_of_empty (.inr (.inr hr))

namespace State.Sequenced

variable {s t : State}

theorem records (h : s.Sequenced) (hop : s.op.runsFsm = true) : s.rcv.Records validAddresses s.expected :=
  ⟨h.addrRecorded hop, h.ctrlRecorded hop, h.trailing hop⟩

theorem no_command (h : s.Sequenced) (hop : s.op ≠ .idle) : s.pend.cmd = none := by
  by_contra hc
  exact hop (h.latched hc)

/-- R25, R236: while an operation is in progress OPENF is 0 in OPEN and 1 in every other. -/
theorem openf_eq (h : s.Sequenced) (hop : s.op ≠ .idle) : s.openf = !decide (s.op = .openWait) := by
  cases ho : s.op with
  | idle => exact absurd ho hop
  | openWait => simpa using h.closed ho
  | writeWait | readHeader | readBody | closeWait => simpa using h.opened (by simp [ho])

/-- The invariant looks at the sequencing registers only, and at the command taken. -/
theorem congr (h : s.Sequenced) (hcmd : t.pend.cmd ≠ none → s.op = .idle) (hrcv : t.rcv = s.rcv := by rfl)
    (ha : t.tarmed = s.tarmed := by rfl) (hop : t.op = s.op := by rfl) (htx : t.txbit = s.txbit := by rfl)
    (hrx : t.rxbit = s.rxbit := by rfl) (hf : t.openf = s.openf := by rfl) (hr : t.result = s.result := by rfl) :
    t.Sequenced := by
  have he : t.expected = s.expected := by simp only [State.expected, hop, htx, hrx]
  constructor <;> simp only [hrcv, ha, hop, hrx, hf, hr, he]
  · exact h.armed
  · exact h.running
  · exact h.inBody
  · exact h.addrRecorded
  · exact h.ctrlRecorded
  · exact h.trailing
  · exact h.closed
  · exact h.opened
  · exact h.pending
  · exact hcmd

/-- R224: with OP Idle and the timer disarmed nothing more is asked. -/
theorem of_idle (hop : s.op = .idle := by simp) (ha : s.tarmed = false := by simp) : s.Sequenced := by
  constructor <;> simp [hop, ha, Op.runsFsm, Op.timed]

/-- An operation whose run of the FSM has nothing recorded wrongly and is not done. -/
theorem of_run (hop : s.op.runsFsm = true) (ha : s.tarmed = s.op.timed)
    (hne : s.rcv.fsm ≠ .done) (hrec : s.rcv.Records validAddresses s.expected)
    (hf : s.openf = !decide (s.op = .openWait)) (hr : s.result = .none) (hc : s.pend.cmd = none) : s.Sequenced where
  armed := ha
  running _ := hne
  inBody h := by simp [h, Op.runsFsm] at hop
  addrRecorded _ := hrec.addr
  ctrlRecorded _ := hrec.ctrl
  trailing _ := hrec.trailing
  closed h := by simp [hf, h]
  opened h := by rcases h with h | h | h | h <;> simp [hf, h]
  pending _ := hr
  latched h := absurd hc h

/-- R138: an operation whose run of the FSM starts. -/
theorem of_start (hop : s.op.runsFsm = true) (ha : s.tarmed = s.op.timed) (hf : s.openf = !decide (s.op = .openWait))
    (hr : s.result = .none) (hc : s.pend.cmd = none) (hfsm : s.rcv.fsm = .awaitFlag := by rfl) : s.Sequenced :=
  of_run hop ha (by simp [hfsm]) (records_of_empty (.inl hfsm)) hf hr hc

/-- R138, R186: an operation whose answer is awaited anew. -/
theorem of_retry (h : s.Sequenced) (hop : s.op.timed = true) (ha : t.tarmed = true := by simp)
    (hop' : t.op = s.op := by simp) (hfsm : t.rcv.fsm = .awaitFlag := by simp) (hf : t.openf = s.openf := by simp)
    (hr : t.result = s.result := by simp) (hc : t.pend = s.pend := by simp) : t.Sequenced := by
  have hne : s.op ≠ .idle := fun hi => by simp [hi, Op.timed] at hop
  have hruns : s.op.runsFsm = true := by cases ho : s.op <;> simp [ho, Op.timed] at hop ⊢ <;> rfl
  refine of_start (hop'.symm ▸ hruns) ?_ ?_ ?_ ?_ hfsm
  · rw [ha, hop', hop]
  · rw [hf, hop']; exact h.openf_eq hne
  · rw [hr]; exact h.pending hne
  · rw [hc]; exact h.no_command hne

theorem byteMoves (h : s.Sequenced) {x : Byte} (hm : s.ByteMoves x t) : t.Sequenced := by
  cases hm with
  | bodyByte hop => exact h.congr h.latched
  | bodyAccepted | openSet | openUa | closeDisc | closeUa | acknowledged => exact of_idle
  | bodyRejected hop =>
    have hne : s.op ≠ .idle := by simp [hop]
    refine of_start (by simp [Op.runsFsm]) ?_ ?_ (by simp [h.pending hne]) (by simp [h.no_command hne]) (by simp)
    · simpa [hop, Op.timed] using h.armed
    · simpa [hop] using h.openf_eq hne
  | fsm hop hd =>
    have hne : s.op ≠ .idle := fun hi => by simp [hi, Op.runsFsm] at hop
    exact of_run hop h.armed hd (fsmNext_records x (h.records hop)) (h.openf_eq hne) (h.pending hne) (h.no_command hne)
  | rejected hop =>
    obtain heq | ⟨-, heq⟩ := writeRejected_cases (s.stepped x) <;> rw [heq]
    · exact of_idle
    · exact h.of_retry (by simp [hop, Op.timed])
  | header hop hd hc =>
    have hne : s.op ≠ .idle := by simp [hop]
    have hkeep := (fsmNext_done (h.running (by rw [hop]; rfl)) hd).2
    constructor <;> simp [Op.runsFsm, Op.timed]
    · simpa [hop, Op.timed] using h.armed
    · exact ⟨hd, by rw [hkeep]; exact hc⟩
    · simpa [hop] using h.openf_eq hne
    · exact h.pending hne
    · exact h.no_command hne

theorem timeoutMoves (h : s.Sequenced) (ha : s.tarmed = true) (hm : s.TimeoutMoves t) : t.Sequenced := by
  have htimed : s.op.timed = true := h.armed ▸ ha
  cases hm with
  | unreached hop => simp [hop] at htimed
  | openFails | writeFails | closeFails => exact of_idle
  | openRetries | writeRetries | closeRetries => exact h.of_retry htimed

theorem commandMoves (h : s.Sequenced) (hc : s.pend.cmd = none) (hm : s.CommandMoves t) : t.Sequenced := by
  cases hm with
  | busy => exact h
  | refused => exact of_idle
  | opens _ hf | writes _ hf | closes _ hf =>
    exact of_start (by simp [Op.runsFsm]) (by simp [Op.timed]) (by simp [hf]) (by simp) (by simp [hc]) (by simp)
  | reads hop hf =>
    have ha := h.armed
    exact of_start rfl (by simpa [hop, Op.timed] using ha) (by simp [hf]) rfl hc

theorem inputMoves (h : s.Sequenced) (hm : s.InputMoves t) : t.Sequenced := by
  cases hm with
  | instant rx tmr pend htmr hcmd => exact h.congr hcmd
  | regWrite | txbufWrite | read | txTake => exact h.congr h.latched

theorem onXportErr (h : s.Sequenced) : s.onXportErr.Sequenced := by
  obtain ⟨-, heq⟩ | ⟨-, heq⟩ := onXportErr_cases s <;> rw [heq]
  · exact h
  · exact of_idle

end State.Sequenced

/-- The rule for an invariant of sequenced states: one case a kind of move. The pulses, the RX stream, the environment's
moves and the lines are not part of it. -/
theorem step_keeps_sequenced {P : State → Prop}
    (hports : ∀ (s : State) done stats rx inputs pend, P s →
      P { s with done := done, statsValid := stats, rx := rx, inputs := inputs, pend := pend })
    (hreset : ∀ s, P s → P s.onReset) (hxport : ∀ s, P s → P s.onXportErr)
    (hbyte : ∀ s x t, s.Sequenced → P s → s.ByteMoves x t → P t)
    (htime : ∀ s t, s.Sequenced → P s → s.op.timed = true → s.TimeoutMoves t → P t)
    (hcmd : ∀ s t, P s → s.CommandMoves t → P t) (hinput : ∀ s t, P s → s.InputMoves t → P t)
    {s t : State} (h : step s = .next t) (hs : s.Sequenced) (hp : P s) : t.Sequenced ∧ P t := by
  exact step_keeps (P := fun s => s.Sequenced ∧ P s)
    (hdrop := fun s ⟨hs, hp⟩ => ⟨hs.congr hs.latched, hports s _ _ _ _ _ hp⟩)
    (hrx := fun s r ⟨hs, hp⟩ => ⟨hs.congr hs.latched, hports s _ _ _ _ _ hp⟩)
    (hnext := fun s i ⟨hs, hp⟩ => ⟨hs.congr (by simp [Lines.clear]), hports s _ _ _ _ _ hp⟩)
    (hrst := fun s ⟨_, hp⟩ => ⟨.of_idle rfl rfl, hreset _ (hports s _ _ _ _ _ hp)⟩)
    (hxport := fun s ⟨hs, hp⟩ => ⟨.onXportErr (hs.congr hs.latched), hxport _ (hports s _ _ _ _ _ hp)⟩)
    (hvalid := fun s ⟨hs, hp⟩ => ⟨hs.congr hs.latched, hports s _ _ _ _ _ hp⟩)
    (hbyte := fun s x ⟨hs, hp⟩ hop =>
      have hm := rxByte_moves (x := x) hs hop
      ⟨hs.byteMoves hm, hbyte s x _ hs hp hm⟩)
    (htime := fun s ⟨hs, hp⟩ ha _ =>
      have hm := onTimeout_moves ha
      ⟨hs.timeoutMoves ha hm, htime s _ hs hp (hs.armed ▸ ha) hm⟩)
    (hcmd := fun s w ⟨hs, hp⟩ _ =>
      have hm := command_moves w { s with pend := { s.pend with cmd := none } }
      ⟨(hs.congr (by simp)).commandMoves rfl hm, hcmd _ _ (hports s _ _ _ _ _ hp) hm⟩)
    (hinput := fun s m t ⟨hs, hp⟩ _ ht hm =>
      have hi := applyInput_moves hm ht
      ⟨hs.inputMoves hi, hinput s t hp hi⟩) h ⟨hs, hp⟩

/-- Settles O53: the rule above, asking for nothing more. -/
theorem sequencedKept : Obligations.SequencedKept := by
  unfold Obligations.SequencedKept
  intro s t hs h
  exact (step_keeps_sequenced (P := fun _ => True) (fun _ _ _ _ _ _ _ => trivial) (fun _ _ => trivial)
    (fun _ _ => trivial) (fun _ _ _ _ _ _ => trivial) (fun _ _ _ _ _ _ => trivial) (fun _ _ _ _ => trivial)
    (fun _ _ _ _ => trivial) h hs trivial).1

/-! ## The retry budget and the timer (R32, R151, R186, R188) -/

namespace State.Budgeted

variable {s t : State}

/-- What keeps the budget while NUM_TRIES and TIME_OUT stay. -/
theorem next (h : s.Budgeted) (hretry : t.retry ≤ s.numTries ∨ t.op.timed = false ∧ t.retry ≤ s.numTries + 1)
    (hopen : t.openf = true ∨ t.op = .openWait → s.openf = true ∨ s.op = .openWait) (htmr : t.tmr ≤ s.timeOut)
    (hnum : t.numTries = s.numTries := by simp) (hto : t.timeOut = s.timeOut := by simp) : t.Budgeted := by
  constructor
  · rw [hnum]; omega
  · intro htimed
    simp only [htimed, Bool.true_eq_false, false_and, or_false] at hretry
    rw [hnum]; exact hretry
  · rw [hnum, hto]; exact fun ho => h.positive (hopen ho)
  · rw [hto]; exact htmr

/-- What keeps the budget while RETRY stays as well. -/
theorem same (h : s.Budgeted) (hop : t.op.timed = true → s.op.timed = true)
    (hopen : t.openf = true ∨ t.op = .openWait → s.openf = true ∨ s.op = .openWait)
    (hretry : t.retry = s.retry := by simp) (htmr : t.tmr = s.tmr := by simp)
    (hnum : t.numTries = s.numTries := by simp) (hto : t.timeOut = s.timeOut := by simp) : t.Budgeted := by
  refine h.next ?_ hopen (htmr ▸ h.timer) hnum hto
  rw [hretry]
  cases htimed : t.op.timed
  · exact .inr ⟨rfl, h.retryBound⟩
  · exact .inl (h.attempt (hop htimed))

theorem ports (h : s.Budgeted) (done stats : Bool) (rx : List Byte) (inputs : List Input) (pend : Lines) :
    State.Budgeted { s with done := done, statsValid := stats, rx := rx, inputs := inputs, pend := pend } :=
  h.same id id rfl rfl rfl rfl

theorem onXportErr (h : s.Budgeted) : s.onXportErr.Budgeted := by
  obtain ⟨-, heq⟩ | ⟨-, heq⟩ := onXportErr_cases s <;> rw [heq]
  · exact h
  · exact h.same (by simp [Op.timed]) (by simp; tauto)

theorem byteMoves (h : s.Budgeted) {x : Byte} (hm : s.ByteMoves x t) : t.Budgeted := by
  cases hm with
  | bodyByte => exact h.same id id rfl rfl rfl rfl
  | closeDisc | closeUa => exact h.same (by simp [Op.timed]) (by simp)
  | bodyAccepted | bodyRejected | acknowledged => exact h.same (by simp [Op.timed]) (by simp; tauto)
  | fsm => exact h.same id id
  | openSet hop | openUa hop => exact h.same (by simp [Op.timed]) (by simp [hop])
  | header => exact h.same (by simp [Op.timed]) (by simp; tauto)
  | rejected hop =>
    have hattempt := h.attempt (by simp [hop, Op.timed])
    obtain heq | ⟨hx, heq⟩ := writeRejected_cases (s.stepped x) <;> rw [heq]
    · have hmod := Nat.mod_le (s.retry + 1) (2 ^ (s.build.triesW + 1))
      exact h.next (.inr ⟨by simp [Op.timed], by simp; omega⟩) (by simp; tauto) (by simpa using h.timer)
    · rw [State.exhausted_eq_false_iff] at hx
      exact h.next (.inl (by simpa using hx)) (by simp) (by simp)

theorem timeoutMoves (h : s.Budgeted) (hop : s.op.timed = true) (hm : s.TimeoutMoves t) : t.Budgeted := by
  have hattempt := h.attempt hop
  have hmod := Nat.mod_le (s.retry + 1) (2 ^ (s.build.triesW + 1))
  cases hm with
  | unreached hun => simp [hop] at hun
  | openFails | writeFails | closeFails =>
    exact h.next (.inr ⟨by simp [Op.timed], by simp; omega⟩) (by simp; try tauto) (by simp)
  | openRetries _ hx | writeRetries _ hx | closeRetries _ hx =>
    rw [State.exhausted_eq_false_iff] at hx
    exact h.next (.inl (by simpa using hx)) (by simp) (by simp)

theorem commandMoves (h : s.Budgeted) (hm : s.CommandMoves t) : t.Budgeted := by
  cases hm with
  | busy => exact h
  | refused => exact h.same (by simp [Op.timed]) (by simp; tauto)
  | opens _ _ hn ht => constructor <;> simp; omega
  | writes _ hf | closes _ hf => exact h.next (by simp) (by simp [hf]) (by simp)
  | reads => exact h.same (by simp [Op.timed]) (by simp; tauto)

theorem inputMoves (h : s.Budgeted) (hm : s.InputMoves t) : t.Budgeted := by
  cases hm with
  | instant rx tmr pend htmr =>
    have hdown : State.Budgeted { s with tmr := tmr } := { h with timer := htmr.trans h.timer }
    exact hdown.same id id rfl rfl rfl rfl
  | regWrite | txbufWrite | read | txTake => exact h.same id id rfl rfl rfl rfl

end State.Budgeted

theorem State.Budgeted.onReset (s : State) : s.onReset.Budgeted := by
  constructor <;> simp [State.onReset, State.reset]

/-- Settles O54, from what each kind of move does to RETRY, TMR and OPENF. -/
theorem budgetedKept : Obligations.BudgetedKept := by
  unfold Obligations.BudgetedKept
  intro s t hs hb h
  exact (step_keeps_sequenced (fun _ _ _ _ _ _ hb => hb.ports _ _ _ _ _) (fun s _ => State.Budgeted.onReset s)
    (fun _ hb => hb.onXportErr) (fun _ _ _ _ hb hm => hb.byteMoves hm) (fun _ _ _ hb hop hm => hb.timeoutMoves hop hm)
    (fun _ _ hb hm => hb.commandMoves hm) (fun _ _ hb hm => hb.inputMoves hm) h hs hb).2

/-! ## The buffers (R36, R37, R41, R64 to R66, R118) -/

theorem Body.dataByte_eq_none_iff {x : Byte} {b : Body} :
    b.dataByte x = none ↔ x = FLAG ∨ b.escp = false ∧ x = ESC := by
  unfold Body.dataByte
  split_ifs <;> simp_all

/-- R118: a byte that yields no data byte changes ESCP at most. -/
theorem Body.step_of_none {n : Nat} {x : Byte} {b : Body} (h : b.dataByte x = none) :
    ∃ e, b.step n x = { b with escp := e } := by
  rcases Body.dataByte_eq_none_iff.mp h with rfl | ⟨he, rfl⟩
  · exact ⟨b.escp, by simp [Body.step]⟩
  · exact ⟨true, by simp [Body.step, he, show ESC ≠ FLAG by decide]⟩

/-- R118: a data byte is taken into BCCACC and stored, and ESCP falls. -/
theorem Body.step_of_some {n : Nat} {x d : Byte} {b : Body} (h : b.dataByte x = some d) :
    b.step n x = { b.store n d with escp := false } := by
  unfold Body.dataByte at h
  unfold Body.step Body.store
  split_ifs at h ⊢ <;> simp_all

namespace State.Buffered

variable {s t : State}

/-- The invariant looks at the buffers, the lengths, the body decoder and the build parameters. -/
theorem congr (h : s.Buffered) (hop : t.op = .readBody → s.op = .readBody)
    (hdel : t.delivered = true → s.delivered = true) (htxbuf : t.txbuf = s.txbuf := by simp)
    (hrxbuf : t.rxbuf = s.rxbuf := by simp) (hframebuf : t.framebuf = s.framebuf := by simp)
    (hbody : t.body = s.body := by simp) (hrxlen : t.rxlen = s.rxlen := by simp)
    (hframelen : t.framelen = s.framelen := by simp) (hbuild : t.build = s.build := by simp) : t.Buffered := by
  constructor <;> simp only [htxbuf, hrxbuf, hframebuf, hbody, hrxlen, hframelen, hbuild]
  · exact h.txbufForm
  · exact h.txbufRange
  · exact h.rxbufForm
  · exact h.rxbufRange
  · exact h.framebufForm
  · exact h.framebufRange
  · exact h.rxcnt
  · exact h.rxovf
  · exact h.rxlen
  · exact h.framelen
  · exact fun ho => h.stored (hop ho)
  · exact fun hd => h.payloadHeld (hdel hd)

theorem ports (h : s.Buffered) (done stats : Bool) (rx : List Byte) (inputs : List Input) (pend : Lines) :
    State.Buffered { s with done := done, statsValid := stats, rx := rx, inputs := inputs, pend := pend } :=
  h.congr id id rfl rfl rfl rfl rfl rfl rfl

theorem onXportErr (h : s.Buffered) : s.onXportErr.Buffered := by
  obtain ⟨-, heq⟩ | ⟨-, heq⟩ := onXportErr_cases s <;> rw [heq]
  · exact h
  · exact h.congr (by simp) (by simp)

/-- R118: a body byte is stored, if at all, at the index RXCNT, which is the first not counted. -/
theorem bodyStep (h : s.Buffered) (x : Byte) : (s.bodyStep x).Buffered := by
  unfold State.bodyStep
  cases hd : s.body.dataByte x with
  | none =>
    obtain ⟨e, he⟩ := Body.step_of_none (n := s.build.maxPayload) hd
    rw [he]
    exact { h with }
  | some d =>
    rw [Body.step_of_some hd]
    unfold Body.store Body.storesAt
    simp only [decide_eq_true_eq]
    split_ifs with hroom
    · exact { h with
        rxbufForm := Memory.wf_write _ d h.rxbufForm
        rxbufRange := Memory.below_write d (Nat.lt_succ_of_le hroom) h.rxbufRange
        rxcnt := Nat.succ_le_succ hroom
        rxovf := fun hov => by have := h.rxovf hov; omega
        stored := fun hop i hi => by
          rcases Nat.lt_succ_iff_lt_or_eq.mp hi with hlt | rfl
          · exact Memory.isSome_read_write _ d (h.stored hop i hlt)
          · simp [Memory.read_write_same]
        payloadHeld := fun hdel i hi => Memory.isSome_read_write _ d (h.payloadHeld hdel i hi) }
    · have hrxcnt := h.rxcnt
      exact { h with rxovf := fun _ => show s.body.rxcnt = s.build.maxPayload + 1 by omega }

/-- R119, R181: an accepted body holds at least the BCC2 byte, so the payload is one byte shorter than the count. -/
theorem readAccepted (h : s.Buffered) (hop : s.op = .readBody) (hok : s.body.ok = true) : s.readAccepted.Buffered := by
  have hrxcnt := h.rxcnt
  have hpos : 1 ≤ s.body.rxcnt := by simp [Body.ok] at hok; omega
  exact { h with
    rxlen := show s.body.rxcnt - 1 ≤ s.build.maxPayload by omega
    stored := nofun
    payloadHeld := fun _ i hi => h.stored hop i (by have : i ≤ s.body.rxcnt - 1 := hi; omega) }

theorem enterBody (h : s.Buffered) : s.enterBody.Buffered :=
  { h with
    rxcnt := Nat.zero_le _
    rxovf := nofun
    stored := fun _ i hi => absurd hi (Nat.not_lt_zero i) }

/-- R66, R172: the frame of a payload of at most MAX_PAYLOAD bytes fits FRAMEBUF. -/
theorem writeStart (h : s.Buffered) (hlen : s.txlen ≤ s.build.maxPayload) : s.writeStart.Buffered := by
  have hfit := length_encInfo_le (cmdAddr s.role) s.txbit s.payload
  rw [State.payload, Memory.length_readList] at hfit
  have hkeep : State.Buffered { s.writeStart with framebuf := s.framebuf, framelen := s.framelen } :=
    h.congr (by simp) (by simp)
  exact { hkeep with
    framebufForm := by simpa using Memory.wf_writeList _ 0 h.framebufForm
    framebufRange := by simpa using Memory.below_writeList _ 0 (by rw [State.payload]; omega) h.framebufRange
    framelen := by simp only [State.writeStart_framelen, State.writeStart_build, State.payload]; omega }

theorem byteMoves (h : s.Buffered) {x : Byte} (hm : s.ByteMoves x t) : t.Buffered := by
  have hcount : s.countReceived.Buffered := h.congr (by simp) (by simp)
  cases hm with
  | bodyByte => exact hcount.bodyStep x
  | bodyAccepted hop _ hok =>
    have hover : (s.countReceived.handOver (.verdict true)).Buffered := hcount.congr (by simp) (by simp)
    exact hover.readAccepted hop hok
  | bodyRejected | openSet | openUa | closeDisc | closeUa | acknowledged => exact h.congr (by simp) (by simp)
  | fsm => exact h.congr (by simp) (by simp)
  | rejected hop =>
    obtain heq | ⟨-, heq⟩ := writeRejected_cases (s.stepped x) <;> rw [heq] <;> exact h.congr (by simp) (by simp)
  | header =>
    have hstep : (s.stepped x).Buffered := h.congr (by simp) (by simp)
    exact hstep.enterBody

theorem timeoutMoves (h : s.Buffered) (hm : s.TimeoutMoves t) : t.Buffered := by
  cases hm with
  | unreached | openFails | writeFails | closeFails | openRetries | writeRetries | closeRetries =>
    exact h.congr (by simp) (by simp)

theorem commandMoves (h : s.Buffered) (hm : s.CommandMoves t) : t.Buffered := by
  cases hm with
  | busy => exact h
  | refused | opens | reads | closes => exact h.congr (by simp) (by simp)
  | writes _ _ hlen => exact h.writeStart hlen

theorem inputMoves (h : s.Buffered) (hm : s.InputMoves t) : t.Buffered := by
  cases hm with
  | instant | regWrite | read | txTake => exact h.congr id id rfl rfl rfl rfl rfl rfl rfl
  | txbufWrite m n hw =>
    obtain rfl | ⟨k, b, hk, rfl⟩ := hw
    · exact h.congr id id rfl rfl rfl rfl rfl rfl rfl
    · exact { h with
        txbufForm := Memory.wf_write k b h.txbufForm
        txbufRange := Memory.below_write b hk h.txbufRange }

end State.Buffered

theorem State.Buffered.onReset (s : State) : s.onReset.Buffered := by
  constructor <;> simp [State.onReset, State.reset, Memory.wf, Memory.below]

/-- Settles O56, from what each kind of move does to the buffers, their lengths and the body decoder. -/
theorem bufferedKept : Obligations.BufferedKept := by
  unfold Obligations.BufferedKept
  intro s t hs hb h
  exact (step_keeps_sequenced (fun _ _ _ _ _ _ hb => hb.ports _ _ _ _ _) (fun s _ => State.Buffered.onReset s)
    (fun _ hb => hb.onXportErr) (fun _ _ _ _ hb hm => hb.byteMoves hm) (fun _ _ _ hb _ hm => hb.timeoutMoves hm)
    (fun _ _ hb hm => hb.commandMoves hm) (fun _ _ hb hm => hb.inputMoves hm) h hs hb).2

/-! ## The widths of the registers (R22 to R24, R32, R33, R209) -/

namespace State.InWidth

variable {s t : State}

/-- The invariant looks at the retry and timer registers, the counters and the build parameters. -/
theorem congr (h : s.InWidth) (hcfgTries : t.cfgTries = s.cfgTries := by simp)
    (hcfgTimeout : t.cfgTimeout = s.cfgTimeout := by simp) (hnum : t.numTries = s.numTries := by simp)
    (hto : t.timeOut = s.timeOut := by simp) (hretry : t.retry = s.retry := by simp) (htmr : t.tmr = s.tmr := by simp)
    (hstat : t.stat = s.stat := by simp) (hbuild : t.build = s.build := by simp) : t.InWidth := by
  constructor <;> simp only [hcfgTries, hcfgTimeout, hnum, hto, hretry, htmr, hstat, hbuild]
  · exact h.cfgTries
  · exact h.numTries
  · exact h.retry
  · exact h.cfgTimeout
  · exact h.timeOut
  · exact h.tmr
  · exact h.framesSent
  · exact h.framesRecv
  · exact h.rejSent
  · exact h.rejRecv
  · exact h.timeouts
  · exact h.escaped
  · exact h.bytesSent
  · exact h.bytesRecv

/-! R209: a counter is bumped modulo 2^CNT_W; R32: RETRY modulo its width. -/

theorem countReceived (h : s.InWidth) : s.countReceived.InWidth := { h with bytesRecv := s.bumped_lt _ _ }
theorem countTimeout (h : s.InWidth) : s.countTimeout.InWidth := { h with timeouts := s.bumped_lt _ _ }
theorem countRejReceived (h : s.InWidth) : s.countRejReceived.InWidth := { h with rejRecv := s.bumped_lt _ _ }
theorem countRejSent (h : s.InWidth) : s.countRejSent.InWidth := { h with rejSent := s.bumped_lt _ _ }
theorem countFrameSent (h : s.InWidth) : s.countFrameSent.InWidth := { h with framesSent := s.bumped_lt _ _ }
theorem countFrameReceived (h : s.InWidth) : s.countFrameReceived.InWidth := { h with framesRecv := s.bumped_lt _ _ }
theorem countEscaped (h : s.InWidth) (k : Nat) : (s.countEscaped k).InWidth := { h with escaped := s.bumped_lt _ _ }
theorem txFrame (h : s.InWidth) (bs : List Byte) : (s.txFrame bs).InWidth := { h with bytesSent := s.bumped_lt _ _ }
theorem bumpRetry (h : s.InWidth) : s.bumpRetry.InWidth := { h with retry := Nat.mod_lt _ (Nat.two_pow_pos _) }
theorem armTimer (h : s.InWidth) : s.armTimer.InWidth := { h with tmr := h.timeOut }
theorem expire (h : s.InWidth) : s.expire.InWidth := { h with tmr := Nat.two_pow_pos _ }

theorem awaitAnswer (h : s.InWidth) : s.awaitAnswer.InWidth :=
  have hrun : s.startRun.InWidth := h.congr
  hrun.armTimer

theorem sendSet (h : s.InWidth) : s.sendSet.InWidth := by
  unfold State.sendSet
  split
  · exact h.txFrame _
  · exact h

theorem sendDisc (h : s.InWidth) : s.sendDisc.InWidth := by
  unfold State.sendDisc
  split
  · exact h.txFrame _
  · exact h

theorem finish (h : s.InWidth) (r : Result) : (s.finish r).InWidth := h.congr

theorem resend (h : s.InWidth) : s.resend.InWidth := (h.txFrame _).awaitAnswer

theorem writeRejected (h : s.InWidth) : s.writeRejected.InWidth := by
  have hdown : s.turnedDown.InWidth := h.countRejReceived.bumpRetry
  obtain heq | ⟨-, heq⟩ := writeRejected_cases s <;> rw [heq]
  · exact hdown.congr
  · exact hdown.resend

theorem readAccepted (h : s.InWidth) : s.readAccepted.InWidth := by
  have hcount : State.InWidth { s with stat := { s.stat with
      bytesSent := s.bumped s.stat.bytesSent (encCtrl (replyAddr s.role) (rrCode s.rxbit)).length
      framesRecv := s.bumped s.stat.framesRecv 1 } } :=
    { h with bytesSent := s.bumped_lt _ _, framesRecv := s.bumped_lt _ _ }
  exact hcount.congr (hstat := by simp [State.readAccepted, State.bumped])

theorem readRejected (h : s.InWidth) : s.readRejected.InWidth := by
  have hcount : State.InWidth { s with stat := { s.stat with
      bytesSent := s.bumped s.stat.bytesSent (encCtrl (replyAddr s.role) (rejCode s.rxbit)).length
      rejSent := s.bumped s.stat.rejSent 1 } } :=
    { h with bytesSent := s.bumped_lt _ _, rejSent := s.bumped_lt _ _ }
  exact hcount.congr (hstat := by simp [State.readRejected, State.bumped])

theorem timeoutMoves (h : s.InWidth) (hm : s.TimeoutMoves t) : t.InWidth := by
  have hout : s.timedOut.InWidth := h.expire.countTimeout.bumpRetry
  cases hm with
  | unreached => exact h.expire
  | openFails | writeFails | closeFails => exact hout.congr
  | openRetries => exact hout.sendSet.awaitAnswer
  | writeRetries => exact hout.resend
  | closeRetries => exact hout.sendDisc.awaitAnswer

/-- R151, R152: OPEN latches what the CFG registers hold. -/
theorem openStart (h : s.InWidth) : s.openStart.InWidth := by
  have hpos := Nat.two_pow_pos s.build.cntW
  have hload : State.InWidth { s with
      role := s.cfgRole, numTries := s.cfgTries, timeOut := s.cfgTimeout, stat := Stats.zero
      txbit := false, rxbit := false, retry := 0, result := .none } :=
    ⟨h.cfgTries, h.cfgTries, Nat.two_pow_pos _, h.cfgTimeout, h.cfgTimeout, h.tmr,
      hpos, hpos, hpos, hpos, hpos, hpos, hpos, hpos⟩
  exact hload.sendSet.awaitAnswer.congr (hstat := by simp [State.openStart])

theorem closeStart (h : s.InWidth) (c : Bool) : (s.closeStart c).InWidth := by
  have hload : State.InWidth { s with collect := c, retry := 0, result := .none } :=
    { h with retry := Nat.two_pow_pos _ }
  exact hload.sendDisc.awaitAnswer.congr (hstat := by simp [State.closeStart])

theorem writeStart (h : s.InWidth) : s.writeStart.InWidth := by
  have hload : State.InWidth { s with
      retry := 0, tmr := s.timeOut
      stat := { s.stat with
        escaped := s.bumped s.stat.escaped (encInfoEsc s.payload)
        bytesSent := s.bumped s.stat.bytesSent (encInfo (cmdAddr s.role) s.txbit s.payload).length } } :=
    { h with retry := Nat.two_pow_pos _, tmr := h.timeOut, escaped := s.bumped_lt _ _, bytesSent := s.bumped_lt _ _ }
  exact hload.congr (hstat := by simp [State.writeStart, State.bumped])

theorem commandMoves (h : s.InWidth) (hm : s.CommandMoves t) : t.InWidth := by
  cases hm with
  | busy => exact h
  | refused | reads => exact h.congr
  | opens => exact h.openStart
  | writes => exact h.writeStart
  | closes _ _ c => exact h.closeStart c

theorem inputMoves (h : s.InWidth) (hm : s.InputMoves t) : t.InWidth := by
  cases hm with
  | instant _ _ _ htmr => exact { h with tmr := htmr.trans_lt h.tmr }
  | regWrite _ _ _ _ htries htime =>
    exact { h with
      cfgTries := htries.elim (fun e => e ▸ h.cfgTries) id
      cfgTimeout := htime.elim (fun e => e ▸ h.cfgTimeout) id }
  | txbufWrite | read | txTake => exact { h with }

theorem onXportErr (h : s.InWidth) : s.onXportErr.InWidth := by
  obtain ⟨-, heq⟩ | ⟨-, heq⟩ := onXportErr_cases s <;> rw [heq]
  · exact h
  · exact h.congr

theorem onReset (s : State) : s.onReset.InWidth := by
  constructor <;> exact Nat.two_pow_pos _

/-- Each action on a received byte keeps the widths, in any state. -/
theorem keptByByteActions : KeptByByteActions State.InWidth where
  receiver _ _ h := { h with }
  countReceived _ h := h.countReceived
  handOver _ _ h := h.congr
  bodyStep _ _ h := { h with }
  sendUa _ h := h.txFrame _
  openDone _ h := h.congr
  closeDone _ h := h.congr
  writeAcknowledged s h :=
    have hflip : State.InWidth { s.disarmTimer with txbit := !s.txbit } := { h with }
    hflip.countFrameSent.finish _
  writeRejected _ h := h.writeRejected
  enterBody _ h := h.congr
  readAccepted _ h := h.readAccepted
  readRejected _ h := h.readRejected

end State.InWidth

/-- Settles O55: the rule of a byte in any state, and one case a kind of move. -/
theorem inWidthKept : Obligations.InWidthKept := by
  unfold Obligations.InWidthKept
  intro s t hs h
  exact step_keeps (P := State.InWidth) (fun _ hs => { hs with }) (fun _ _ hs => { hs with })
    (fun _ _ hs => { hs with }) (fun _ _ => .onReset _) (fun s hs =>
      have hs' : State.InWidth { s with pend := { s.pend with xportErr := false } } := { hs with }
      hs'.onXportErr) (fun _ hs => { hs with })
    (fun _ x hs _ => State.InWidth.keptByByteActions.rxByte x hs) (fun _ hs ha _ => hs.timeoutMoves (onTimeout_moves ha))
    (fun s w hs _ =>
      have hs' : State.InWidth { s with pend := { s.pend with cmd := none } } := { hs with }
      hs'.commandMoves (command_moves w _))
    (fun _ _ _ hs _ ht hm => hs.inputMoves (applyInput_moves hm ht)) h hs

end Sys2Proof.Machine
end

section
/-! PROOFS. Family 10_state, what a step does to the operation in progress: it goes on, it ends, or none was in progress. From that the rules of the end of an operation (O45), of OPENF (O46) and of the sequence bits (O47). -/

namespace Sys2Proof.Machine

open Sys2Proof.Config

/-- The two positions of READ (R27). -/
def Op.reads (o : Op) : Bool := o = .readHeader || o = .readBody

theorem Op.reads_iff {o : Op} : o.reads = true ↔ o = .readHeader ∨ o = .readBody := by simp [Op.reads]

/-- The operation in progress goes on: what only its end may change stays, and nothing is pulsed. -/
structure State.Continues (s t : State) : Prop where
  running : t.op ≠ .idle
  same : t.op = s.op ∨ s.op.reads = true ∧ t.op.reads = true
  openf : t.openf = s.openf
  txbit : t.txbit = s.txbit
  rxbit : t.rxbit = s.rxbit
  collect : t.collect = s.collect
  done : t.done = false
  statsValid : t.statsValid = false

/-- The operation in progress ends (R224): OPENF as OPEN or CLOSE leaves it (R25), a sequence bit flipped by a WRITE or READ
that ends with Ok (R174, R181), `stats_valid` by CLOSE alone (R210). -/
structure State.Ends (s t : State) : Prop where
  was : s.op ≠ .idle
  idle : t.op = .idle
  disarmed : t.tarmed = false
  done : t.done = true
  result : t.result ≠ .none
  openf : t.openf = (decide (s.op = .openWait ∧ t.result = .ok) || (s.openf && !decide (s.op = .closeWait)))
  txbit : t.txbit = (s.txbit ^^ decide (s.op = .writeWait ∧ t.result = .ok))
  rxbit : t.rxbit = (s.rxbit ^^ decide (s.op.reads = true ∧ t.result = .ok))
  statsValid : t.statsValid = true →
    s.op = .closeWait ∧ s.collect = true ∧ (t.result = .ok ∨ t.result = .retriesExhausted)

/-- No operation is in progress: at most a command starts one or is refused (R229). -/
structure State.Rests (s t : State) : Prop where
  was : s.op = .idle
  openf : t.openf = s.openf
  bits : t.op ≠ .openWait → t.txbit = s.txbit ∧ t.rxbit = s.rxbit
  refused : t.done = true → t.op = .idle ∧ t.tarmed = false ∧ t.result = .refused
  statsValid : t.statsValid = false

/-- What a step other than a reset does to the operation in progress. -/
inductive State.Progress (s t : State) : Prop where
  | rests (h : s.Rests t)
  | continues (h : s.Continues t)
  | ends (h : s.Ends t)

theorem State.Continues.trans {s u t : State} (h : s.Continues u) (h' : u.Continues t) : s.Continues t where
  running := h'.running
  same := by
    rcases h.same with e | ⟨hs, hu⟩
    · exact e ▸ h'.same
    · exact .inr ⟨hs, h'.same.elim (fun e => e ▸ hu) And.right⟩
  openf := h'.openf.trans h.openf
  txbit := h'.txbit.trans h.txbit
  rxbit := h'.rxbit.trans h.rxbit
  collect := h'.collect.trans h.collect
  done := h'.done
  statsValid := h'.statsValid

/-- What goes on before the end does not change what the end leaves. -/
theorem State.Continues.trans_ends {s u t : State} (h : s.Continues u) (h' : u.Ends t) : s.Ends t := by
  have hop : s.op ≠ .idle ∧ s.op.reads = u.op.reads ∧ (s.op = .openWait ↔ u.op = .openWait) ∧
      (s.op = .closeWait ↔ u.op = .closeWait) ∧ (s.op = .writeWait ↔ u.op = .writeWait) := by
    rcases h.same with e | ⟨hs, hu⟩
    · rw [← e]; exact ⟨h'.was, rfl, .rfl, .rfl, .rfl⟩
    · rcases Op.reads_iff.mp hs with ho | ho <;> rcases Op.reads_iff.mp hu with ho' | ho' <;>
        simp [ho, ho', Op.reads]
  obtain ⟨hne, hreads, hopen, hclose, hwrite⟩ := hop
  exact {
    was := hne, idle := h'.idle, disarmed := h'.disarmed, done := h'.done, result := h'.result
    openf := by simp only [hopen, hclose, ← h.openf]; exact h'.openf
    txbit := by simp only [hwrite, ← h.txbit]; exact h'.txbit
    rxbit := by simp only [hreads, ← h.rxbit]; exact h'.rxbit
    statsValid := by simp only [hclose, ← h.collect]; exact h'.statsValid }

/-- A move that touches neither OP nor what an operation decides. -/
theorem State.Progress.of_same {s t : State} (hd : s.done = false) (hv : s.statsValid = false)
    (hop : t.op = s.op := by rfl) (hf : t.openf = s.openf := by rfl)
    (htx : t.txbit = s.txbit := by rfl) (hrx : t.rxbit = s.rxbit := by rfl) (hc : t.collect = s.collect := by rfl)
    (hd' : t.done = s.done := by rfl) (hv' : t.statsValid = s.statsValid := by rfl) : s.Progress t := by
  rw [hd] at hd'
  rw [hv] at hv'
  by_cases hidle : s.op = .idle
  · exact .rests ⟨hidle, hf, fun _ => ⟨htx, hrx⟩, by simp [hd'], hv'⟩
  · exact .continues ⟨hop ▸ hidle, .inl hop, hf, htx, hrx, hc, hd', hv'⟩

section
variable {s t : State} (hd : s.done = false) (hv : s.statsValid = false)
include hd hv

/-- A received byte lets the operation go on or ends it. -/
theorem progress_of_byteMoves {x : Byte} (hm : s.ByteMoves x t) : s.Continues t ∨ s.Ends t := by
  cases hm with
  | bodyByte hop => left; constructor <;> simp [State.bodyStep, hop, hd, hv]
  | bodyAccepted hop => right; constructor <;> simp [hop, hv, Op.reads]
  | bodyRejected hop => left; constructor <;> simp [hop, hd, hv, Op.reads]
  | fsm hop =>
    have hne : s.op ≠ .idle := fun hi => by simp [hi, Op.runsFsm] at hop
    left; constructor <;> simp [hne, hd, hv]
  | openSet hop | openUa hop => right; constructor <;> simp [hop, hv, Op.reads]
  | closeDisc hop | closeUa hop => right; constructor <;> simp [hop, hv, Op.reads]
  | acknowledged hop => right; constructor <;> simp [hop, hv, Op.reads]
  | rejected hop =>
    obtain heq | ⟨-, heq⟩ := writeRejected_cases (s.stepped x) <;> rw [heq]
    · right; constructor <;> simp [hop, hv, Op.reads]
    · left; constructor <;> simp [hop, hd, hv]
  | header hop => left; constructor <;> simp [hop, hd, hv, Op.reads]

theorem progress_of_timeoutMoves (htimed : s.op.timed = true) (hm : s.TimeoutMoves t) : s.Progress t := by
  cases hm with
  | unreached hop => simp [hop] at htimed
  | openFails hop | writeFails hop | closeFails hop =>
    exact .ends (by constructor <;> simp [hop, hv, Op.reads])
  | openRetries hop | writeRetries hop | closeRetries hop =>
    exact .continues (by constructor <;> simp [hop, hd, hv])

theorem progress_of_commandMoves (hm : s.CommandMoves t) : s.Progress t := by
  cases hm with
  | busy => exact .of_same hd hv
  | refused hop | opens hop | writes hop | reads hop | closes hop =>
    exact .rests (by constructor <;> simp [hop, hd, hv])

theorem progress_of_inputMoves (hm : s.InputMoves t) : s.Progress t := by
  cases hm <;> exact .of_same hd hv

theorem progress_onXportErr : s.Progress s.onXportErr := by
  obtain ⟨-, heq⟩ | ⟨hop, heq⟩ := onXportErr_cases s <;> rw [heq]
  · exact .of_same hd hv
  · exact .ends (by constructor <;> simp [hop, hv])

end

theorem takeBytes_of_idle {s : State} (h : s.op = .idle) : ∀ n, State.takeBytes n s = s
  | 0 => rfl
  | _ + 1 => if_pos h

/-- While the engine takes bytes the operation goes on up to the byte that ends it, which is the last one taken (R61). -/
theorem takeBytes_progress : ∀ (n : Nat) {s : State}, s.Sequenced → s.done = false → s.statsValid = false →
    s.Progress (State.takeBytes n s)
  | 0, _, _, hd, hv => .of_same hd hv
  | n + 1, s, hs, hd, hv => by
    unfold State.takeBytes
    split
    · exact .of_same hd hv
    · next hop =>
      split
      · exact .of_same hd hv
      · next x rest _ =>
        have hu : (State.dropPulses { s with rx := rest }).Sequenced := hs.congr hs.latched
        have hm := rxByte_moves (x := x) hu hop
        have hnext := hu.byteMoves hm
        rcases progress_of_byteMoves rfl rfl hm with hc | he
        · have hc' : s.Continues _ := { hc with }
          cases takeBytes_progress n hnext hc.done hc.statsValid with
          | rests h => exact absurd h.was hc.running
          | continues h => exact .continues (hc'.trans h)
          | ends h => exact .ends (hc'.trans_ends h)
        · rw [takeBytes_of_idle he.idle]
          exact .ends { he with }

/-- The pulses, the RX stream, the environment's moves and the lines are no part of what an operation decides. -/
theorem State.Progress.of_ports {s t : State} {done stats : Bool} {rx : List Byte} {inputs : List Input} {pend : Lines}
    (h : State.Progress { s with done := done, statsValid := stats, rx := rx, inputs := inputs, pend := pend } t) :
    s.Progress t := by
  cases h with
  | rests h => exact .rests { h with }
  | continues h => exact .continues { h with }
  | ends h => exact .ends { h with }

/-- What a step does to the operation in progress, unless it is a reset. -/
theorem step_progress {s t : State} (hs : s.Sequenced) (h : step s = .next t) :
    s.pend.rst = true ∧ t.done = false ∧ t.statsValid = false ∧ t.openf = false ∨ s.Progress t := by
  have hdrop : s.dropPulses.Sequenced := hs.congr hs.latched
  have hline (bs : List Byte) (rest : List Input) :
      s.Progress (State.receive bs { s.dropPulses with inputs := rest, pend := Lines.clear }) :=
    have hu : State.Sequenced { s.dropPulses with inputs := rest, pend := Lines.clear, rx := s.rx ++ bs } :=
      hs.congr (by simp [Lines.clear])
    .of_ports (takeBytes_progress _ hu rfl rfl)
  cases step_moves h with
  | reset hrst => exact .inl ⟨hrst, rfl, rfl, rfl⟩
  | xportErr => exact .inr (.of_ports (progress_onXportErr rfl rfl))
  | rxByte x rest hop =>
    have hu : State.Sequenced { s.dropPulses with pend := { s.pend with rxValid := false }, rx := rest } :=
      hs.congr hs.latched
    have hp := progress_of_byteMoves rfl rfl (rxByte_moves (x := x) hu hop)
    exact .inr (.of_ports (hp.elim .continues .ends))
  | timeout ha => exact .inr (.of_ports (progress_of_timeoutMoves rfl rfl (hdrop.armed ▸ ha) (onTimeout_moves ha)))
  | command w => exact .inr (.of_ports (progress_of_commandMoves rfl rfl (command_moves w _)))
  | wait => exact .inr (.of_ports (.of_same (s := s.dropPulses) rfl rfl))
  | line bs m rest => exact .inr (hline bs rest)
  | input m rest _ _ ht =>
    by_cases hm : ∃ bs, m = .line bs
    · obtain ⟨bs, rfl⟩ := hm
      cases ht
      exact .inr (hline bs rest)
    · exact .inr (.of_ports (progress_of_inputMoves rfl rfl (applyInput_moves (fun bs hb => hm ⟨bs, hb⟩) ht)))

/-- Settles O45: only an end or a refusal pulses `done`, and an end always does. -/
theorem finishLeaves : Obligations.FinishLeaves := by
  unfold Obligations.FinishLeaves
  intro s t hs h
  obtain ⟨hrst, hd, hv, -⟩ | hp := step_progress hs h
  · simp [hrst, hd, hv]
  cases hp with
  | rests r =>
    refine ⟨fun hd => ?_, fun _ hne => absurd r.was hne, fun hd => .inr (r.refused hd).2.2, by simp [r.statsValid]⟩
    obtain ⟨hidle, hdisarmed, hrefused⟩ := r.refused hd
    exact ⟨hidle, hdisarmed, by simp [hrefused]⟩
  | continues c =>
    exact ⟨by simp [c.done], fun _ _ hidle => absurd hidle c.running, by simp [c.done], by simp [c.statsValid]⟩
  | ends e =>
    refine ⟨fun _ => ⟨e.idle, e.disarmed, e.result⟩, fun _ _ _ => e.done, fun _ => .inl e.was, fun hv => ?_⟩
    obtain ⟨hclose, hcollect, hresult⟩ := e.statsValid hv
    exact ⟨e.done, hclose, hcollect, by simp [e.openf, hclose], hresult⟩

/-- Settles O46: OPENF moves only at the end of OPEN and of CLOSE, and at reset. -/
theorem lifecycleFlagRule : Obligations.LifecycleFlagRule := by
  unfold Obligations.LifecycleFlagRule
  intro s t hs h
  obtain ⟨hrst, -, -, hf⟩ | hp := step_progress hs h
  · simp [hrst, hf]
  cases hp with
  | rests r => rw [r.openf]; cases s.openf <;> simp
  | continues c => rw [c.openf]; cases s.openf <;> simp
  | ends e =>
    refine ⟨fun hf ht => ?_, fun hf ht => .inr ?_⟩
    · have hopen : s.op = .openWait ∧ t.result = .ok := by simpa [e.openf, hf] using ht
      exact ⟨hopen.1, e.idle, hopen.2, e.done⟩
    · have hclose : s.op = .closeWait := by
        have := e.openf.symm.trans ht
        simp [hf] at this
        exact this.2
      exact ⟨hclose, e.idle, e.done⟩

/-- Settles O47: at the end of an operation each bit is exclusive-ored with the success it stands for; nothing else moves it. -/
theorem sequenceBitsFlip : Obligations.SequenceBitsFlip := by
  unfold Obligations.SequenceBitsFlip
  intro s t hs h hrst hopen
  obtain ⟨hr, -⟩ | hp := step_progress hs h
  · simp [hrst] at hr
  cases hp with
  | rests r =>
    obtain ⟨htx, hrx⟩ := r.bits (fun ho => hopen ⟨r.was, ho⟩)
    simp [htx, hrx, r.was]
  | continues c => simp [c.txbit, c.rxbit, c.running]
  | ends e =>
    have hflip (b : Bool) (p : Prop) [Decidable p] : (b ^^ decide p) ≠ b ↔ p := by cases b <;> simp
    rw [e.txbit, e.rxbit, hflip, hflip, Op.reads_iff]
    simp [e.idle]

end Sys2Proof.Machine
end

section
/-! PROOFS. Family 10_state, single rows: DEC_BODY (O13), the tick (O31), reset (O33, O34), the register map (O40) and STATUS (O41). -/

namespace Sys2Proof.Machine

open Sys2Proof.Config

theorem bitNat_le (b : Bool) : bitNat b ≤ 1 := by cases b <;> decide

/-! ## DEC_BODY (R36, R37, R117 to R119) -/

/-- R119: bodyOk, as the four conditions of the rule. -/
theorem Body.ok_eq_decide (b : Body) :
    b.ok = decide (b.escp = false ∧ b.rxovf = false ∧ 1 ≤ b.rxcnt ∧ b.bccacc = 0x00) := by
  rw [Bool.eq_iff_iff]
  simp [Body.ok, and_assoc]

theorem decBody_flag (s : State) : s.decBody FLAG = { s with codecOut := .verdict s.body.ok } := if_pos rfl

/-- R118: away from FLAG, DEC_BODY is the body decoder's step. -/
theorem decBody_of_ne_flag {x : Byte} (s : State) (hx : x ≠ FLAG) : s.decBody x = s.bodyStep x := if_neg hx

/-- R118: the data byte of x. -/
theorem Body.dataByte_eq_some {x d : Byte} {b : Body} (hx : x ≠ FLAG)
    (hd : b.escp = true ∧ d = x ^^^ ESC_XOR ∨ b.escp = false ∧ x ≠ ESC ∧ d = x) : b.dataByte x = some d := by
  rcases hd with ⟨he, rfl⟩ | ⟨he, hesc, rfl⟩
  · simp [Body.dataByte, hx, he, destuff]
  · simp [Body.dataByte, hx, he, hesc]

/-- R118: a byte that yields no data byte leaves RXBUF alone. -/
theorem bodyStep_of_none {x : Byte} {s : State} (h : s.body.dataByte x = none) :
    s.bodyStep x = { s with body := s.body.step s.build.maxPayload x } := by
  simp [State.bodyStep, h]

/-- R118: while RXBUF has room the data byte is stored at index RXCNT. -/
theorem bodyStep_of_room {x d : Byte} {s : State} (h : s.body.dataByte x = some d)
    (hroom : s.body.rxcnt ≤ s.build.maxPayload) : s.bodyStep x = { s with
      body := { s.body with escp := false, bccacc := s.body.bccacc ^^^ d, rxcnt := s.body.rxcnt + 1 }
      rxbuf := s.rxbuf.write s.body.rxcnt d } := by
  simp [State.bodyStep, h, Body.step_of_some h, Body.store, Body.storesAt, hroom]

/-- R118: once RXBUF is full a data byte sets RXOVF. -/
theorem bodyStep_of_full {x d : Byte} {s : State} (h : s.body.dataByte x = some d)
    (hfull : s.build.maxPayload < s.body.rxcnt) : s.bodyStep x = { s with
      body := { s.body with escp := false, bccacc := s.body.bccacc ^^^ d, rxovf := true } } := by
  simp [State.bodyStep, h, Body.step_of_some h, Body.store, Body.storesAt, Nat.not_le.mpr hfull]

theorem decBody_body (x : Byte) (s : State) : (s.decBody x).body = s.body.step s.build.maxPayload x := by
  unfold State.decBody
  split_ifs with hx
  · rw [Body.step, if_pos hx]; rfl
  · rfl

/-- R118: the bytes that yield a data byte. -/
theorem Body.isSome_dataByte_iff {x : Byte} {b : Body} :
    (b.dataByte x).isSome = true ↔ x ≠ FLAG ∧ (b.escp = true ∨ x ≠ ESC) := by
  rw [Option.isSome_iff_ne_none, ne_eq, Body.dataByte_eq_none_iff]
  simp [Classical.or_iff_not_imp_left]

/-- R36, R37: the count of destuffed bytes consumed goes up with each byte that yields one and saturates; RXOVF is set by
the one that finds RXBUF full. -/
theorem Body.consumed_step {n : Nat} {b : Body} (x : Byte) (hcnt : b.rxcnt ≤ n + 1)
    (hovf : b.rxovf = true → b.rxcnt = n + 1) :
    (b.step n x).consumed = min (n + 2) (b.consumed + if (b.dataByte x).isSome then 1 else 0) ∧
      ((b.step n x).rxovf = true ↔ b.rxovf = true ∨ (b.dataByte x).isSome = true ∧ b.rxcnt = n + 1) := by
  have hbit : bitNat b.rxovf ≤ 1 := bitNat_le _
  cases hd : b.dataByte x with
  | none =>
    obtain ⟨e, he⟩ := Body.step_of_none (n := n) hd
    rw [he]
    simp [Body.consumed]
    omega
  | some d =>
    rw [Body.step_of_some hd, Body.store, Option.isSome_some, if_pos rfl]
    by_cases hroom : b.rxcnt ≤ n
    · have hno : b.rxovf = false := Bool.eq_false_iff.mpr fun h => by have := hovf h; omega
      simp [hroom, Body.consumed, hno, bitNat]
      omega
    · have hfull : b.rxcnt = n + 1 := by omega
      simp [Body.consumed, hfull, bitNat]

/-- Settles O13: a FLAG, an ESC, a data byte that finds room, and one that finds RXBUF full. -/
theorem bodyByteStep : Obligations.BodyByteStep := by
  unfold Obligations.BodyByteStep
  refine ⟨fun s x => ⟨?_, ?_, ?_⟩, fun _ => rfl, ?_⟩
  · rintro rfl
    rw [← Body.ok_eq_decide, ← decBody_flag]
    rfl
  · rintro hx he rfl
    have hnone : s.body.dataByte ESC = none := Body.dataByte_eq_none_iff.mpr (.inr ⟨he, rfl⟩)
    show Host.Outcome.next (s.decBody ESC) = _
    rw [decBody_of_ne_flag s hx, bodyStep_of_none hnone]
    simp [Body.step, hx, he]
  · intro d hx hd
    have hsome := Body.dataByte_eq_some hx hd
    show (_ → ∃ m, _ ∧ Host.Outcome.next (s.decBody x) = _) ∧ (_ → Host.Outcome.next (s.decBody x) = _)
    rw [decBody_of_ne_flag s hx]
    exact ⟨fun hroom => ⟨_, fun i => Memory.read_write _ _ i d, by rw [bodyStep_of_room hsome hroom]⟩,
      fun hfull => by rw [bodyStep_of_full hsome hfull]⟩
  · intro s x hcnt hovf
    refine ⟨_, rfl, ?_⟩
    have hcount := Body.consumed_step x hcnt hovf
    simp only [Body.isSome_dataByte_iff, and_assoc] at hcount
    rw [decBody_body]
    exact hcount

/-! ## The tick (R33, R185, R231) -/

@[simp] theorem State.latchCmd_none (s : State) : s.latchCmd none = none := by
  unfold State.latchCmd
  split <;> rfl

theorem step_of_tick {s : State} {rest : List Input} (hq : s.Quiet)
    (hi : s.inputs = .instant false false [] false true none :: rest) :
    step s = .next { s.afterMove rest with tmr := if s.tarmed = true then s.tmr - 1 else s.tmr } := by
  rw [step_of_quiet hq hi (by simp), State.applyInput, State.instant_eq]
  simp [State.afterMove, Lines.clear]

/-- R231: with no line raised, a timer that is armed and at 0 is what the next step takes. -/
theorem step_of_timeoutDue {s : State} (hdrop : s.dropPulses = s) (hp : s.pend = Lines.clear) (ha : s.tarmed = true)
    (h0 : s.tmr = 0) : step s = exec .timeout s := by
  have hready : s.readyEvent = some .timeout := by
    simp [State.readyEvent, hp, Lines.clear, State.timeoutDue, ha, h0]
  unfold step
  simp only [hdrop, hready]
  exact takeEvent_other s (by simp)

/-- Settles O31: with TMR at 0 and TARMED still 1 the next event is the Timeout. -/
theorem tickCountsDown : Obligations.TickCountsDown := by
  unfold Obligations.TickCountsDown
  intro s rest hq hi
  have hstep := step_of_tick hq hi
  refine ⟨fun ha => ?_, fun ha => ?_, fun ha h1 t ht => ?_⟩
  · rw [hstep, ha]; rfl
  · rw [hstep, if_pos ha]
  · rw [hstep, if_pos ha, h1] at ht
    cases ht
    exact step_of_timeoutDue rfl rfl ha rfl

/-! ## Reset (R45, R250) -/

/-- Settles O33: State.onReset is the state named. -/
theorem resetEvent : Obligations.ResetEvent := fun _ => rfl

/-- Settles O34, register by register. -/
theorem stateAtReset : Obligations.StateAtReset := by
  unfold Obligations.StateAtReset
  refine ⟨rfl, rfl, rfl, rfl, rfl, rfl, rfl, rfl, rfl, rfl, rfl, rfl, rfl, rfl, rfl, rfl, rfl, rfl, rfl, rfl, rfl, ?_, rfl⟩
  exact fun _ => ⟨rfl, rfl, rfl⟩

/-! ## The register map (R21 to R23, R40, R99) -/

theorem Role.code_eq (r : Role) : r.code = if r = .initiator then 0 else 1 := by cases r <;> rfl

theorem Result.code_eq (r : Result) : r.code = if r = .none then 0 else if r = .ok then 1
    else if r = .retriesExhausted then 2 else if r = .transportError then 3 else 4 := by cases r <;> rfl

/-- R40: the register map, read. -/
theorem State.regRead_eq (n : Nat) (s : State) : s.regRead n =
    if n = 1 then s.cfgRole.code else if n = 2 then s.cfgTries else if n = 3 then s.cfgTimeout
    else if n = 4 then s.statusWord else if n = 5 then s.result.code else if n = 6 then s.retry
    else if n = 7 then s.rcv.addr.toNat + 256 * s.rcv.ctrl.toNat else if n = 8 then s.txlen else if n = 9 then s.rxlen
    else if n = 10 then s.stat.framesSent else if n = 11 then s.stat.framesRecv else if n = 12 then s.stat.rejSent
    else if n = 13 then s.stat.rejRecv else if n = 14 then s.stat.timeouts else if n = 15 then s.stat.escaped
    else if n = 16 then s.stat.bytesSent else if n = 17 then s.stat.bytesRecv else if n = 18 then s.tmr
    else if n = 19 then s.numTries else if n = 20 then s.timeOut else 0 := by
  unfold State.regRead
  split <;> simp_all

/-- Settles O40: a write of CMD is an instant with nothing else in it; every other access is the register map's. -/
theorem registerAccess : Obligations.RegisterAccess := by
  unfold Obligations.RegisterAccess
  intro s n rest hq
  refine ⟨fun hi => ?_, fun v hi => ?_⟩
  · rw [step_of_quiet hq hi (by simp), ← Role.code_eq, ← Result.code_eq, ← State.regRead_eq]
    rfl
  · rw [step_of_quiet hq hi (by simp), State.applyInput]
    by_cases hn : n = 0
    · subst hn
      rw [if_pos rfl, State.instant_eq]
      simp [State.afterMove, State.latchCmd, State.busy, Lines.clear]
    · rw [if_neg hn, State.regWrite_eq]
      simp [State.afterMove, hn, Lines.clear]

/-! ## STATUS (R26, R27, R40) -/

/-- A bit of a word, from its value as a digit. -/
theorem testBit_of_digit {w k : Nat} {b : Bool} (h : w / 2 ^ k % 2 = bitNat b) : w.testBit k = b := by
  rw [Nat.testBit_eq_decide_div_mod_eq, h]
  cases b <;> rfl

theorem Op.code_eq (o : Op) : o.code = if o = .idle then 0 else if o = .openWait then 1 else if o = .writeWait then 2
    else if o = .readHeader then 3 else if o = .readBody then 4 else 5 := by cases o <;> rfl

theorem Fsm.code_eq (f : Fsm) : f.code = if f = .awaitFlag then 0 else if f = .awaitAddress then 1
    else if f = .awaitControl then 2 else if f = .awaitBcc1 then 3 else if f = .awaitTrailingFlag then 4 else 5 := by
  cases f <;> rfl

theorem Role.code_eq_bitNat (r : Role) : r.code = bitNat (decide (r = .responder)) := by cases r <;> rfl

/-- Settles O41: STATUS is a number whose digits, of 1 and 3 bits, are its fields. -/
theorem statusFields : Obligations.StatusFields := by
  unfold Obligations.StatusFields
  intro s
  have hop : s.op.code < 8 := by cases s.op <;> decide
  have hfsm : s.rcv.fsm.code < 8 := by cases s.rcv.fsm <;> decide
  have hbusy : s.busy = decide (s.op ≠ .idle) := by cases ho : s.op <;> simp [State.busy, ho]
  have hopenf := bitNat_le s.openf
  have hbusy' := bitNat_le s.busy
  have htxbit := bitNat_le s.txbit
  have hrxbit := bitNat_le s.rxbit
  have htarmed := bitNat_le s.tarmed
  have hescp := bitNat_le s.body.escp
  have hrxovf := bitNat_le s.body.rxovf
  have hrole := bitNat_le (decide (s.role = .responder))
  have hcollect := bitNat_le s.collect
  obtain ⟨w, hw⟩ : ∃ w, w = s.statusWord := ⟨_, rfl⟩
  rw [← Op.code_eq, ← Fsm.code_eq, ← hbusy, ← hw]
  rw [State.statusWord, Role.code_eq_bitNat] at hw
  refine ⟨testBit_of_digit ?_, testBit_of_digit ?_, ?_, ?_, testBit_of_digit ?_, testBit_of_digit ?_,
    testBit_of_digit ?_, testBit_of_digit ?_, testBit_of_digit ?_, testBit_of_digit ?_, testBit_of_digit ?_, ?_⟩ <;> omega

end Sys2Proof.Machine
end

section
/-! PROOFS. Family 20_memory, the start of a transfer: the frame a WRITE holds in FRAMEBUF (O57), and WRITE (O20) and READ (O21) accepted. -/

namespace Sys2Proof.Machine

open Sys2Proof.Config

/-! The remaining fields of the states after FSM_STEP and in which a retry is compared (R130, R188). -/

section
variable (s : State)

@[simp] theorem State.stepped_role (x : Byte) : (s.stepped x).role = s.role := (rfl)
@[simp] theorem State.timedOut_role : s.timedOut.role = s.role := (rfl)
@[simp] theorem State.turnedDown_role : s.turnedDown.role = s.role := (rfl)

end

/-! ## The frame held while a WRITE is in progress (R66, R172, R192) -/

namespace State.HoldsFrame

variable {s t : State}

/-- The invariant asks nothing where no WRITE is in progress. -/
theorem of_op_ne (hop : t.op ≠ .writeWait := by simp) : t.HoldsFrame := fun hw => absurd hw hop

/-- It looks at FRAMEBUF, FRAMELEN, TXBIT, ROLE and the build parameters only. -/
theorem congr (h : s.HoldsFrame) (hop : t.op = .writeWait → s.op = .writeWait)
    (hlen : t.framelen = s.framelen := by simp) (hbuf : t.framebuf = s.framebuf := by simp)
    (hrole : t.role = s.role := by simp) (hbit : t.txbit = s.txbit := by simp)
    (hbuild : t.build = s.build := by simp) : t.HoldsFrame := by
  intro hw
  rw [hlen, hbuf, hrole, hbit, hbuild]
  exact h (hop hw)

/-- R172: an accepted WRITE encodes the payload and stores the frame from index 0. -/
theorem writeStart (hlen : s.txlen ≤ s.build.maxPayload) : s.writeStart.HoldsFrame := by
  refine fun _ => ⟨s.payload, ?_, by simp, fun i hi => ?_⟩
  · rw [State.payload, Memory.length_readList, State.writeStart_build]
    exact hlen
  · rw [State.writeStart_framelen] at hi
    simp [Memory.read_writeList, hi]

theorem byteMoves (h : s.HoldsFrame) {x : Byte} (hm : s.ByteMoves x t) : t.HoldsFrame := by
  cases hm with
  | bodyByte hop => exact of_op_ne (by simp [State.bodyStep, hop])
  | fsm => exact h.congr id rfl rfl rfl rfl rfl
  | rejected =>
    obtain heq | ⟨-, heq⟩ := writeRejected_cases (s.stepped x) <;> rw [heq]
    · exact of_op_ne
    · exact h.congr (by simp)
  | bodyAccepted | bodyRejected | openSet | openUa | closeDisc | closeUa | acknowledged | header => exact of_op_ne

theorem timeoutMoves (h : s.HoldsFrame) (hm : s.TimeoutMoves t) : t.HoldsFrame := by
  cases hm with
  | openFails | writeFails | closeFails => exact of_op_ne
  | unreached | openRetries | writeRetries | closeRetries => exact h.congr (by simp)

theorem commandMoves (h : s.HoldsFrame) (hm : s.CommandMoves t) : t.HoldsFrame := by
  cases hm with
  | busy => exact h
  | writes _ _ hlen => exact writeStart hlen
  | refused | opens | reads | closes => exact of_op_ne

theorem inputMoves (h : s.HoldsFrame) (hm : s.InputMoves t) : t.HoldsFrame := by
  cases hm <;> exact h.congr id rfl rfl rfl rfl rfl

theorem onXportErr (h : s.HoldsFrame) : s.onXportErr.HoldsFrame := by
  obtain ⟨-, heq⟩ | ⟨-, heq⟩ := onXportErr_cases s <;> rw [heq]
  · exact h
  · exact of_op_ne

theorem onReset (s : State) : s.onReset.HoldsFrame := nofun

end State.HoldsFrame

/-- Settles O57, from what each kind of move does to FRAMEBUF, FRAMELEN, TXBIT and ROLE while WRITE waits. -/
theorem holdsFrameKept : Obligations.HoldsFrameKept := by
  unfold Obligations.HoldsFrameKept
  intro s t hs hf h
  exact (step_keeps_sequenced (fun _ _ _ _ _ _ hf => hf) (fun s _ => State.HoldsFrame.onReset s)
    (fun _ hf => hf.onXportErr) (fun _ _ _ _ hf hm => hf.byteMoves hm) (fun _ _ _ hf _ hm => hf.timeoutMoves hm)
    (fun _ _ hf hm => hf.commandMoves hm) (fun _ _ hf hm => hf.inputMoves hm) h hs hf).2

/-! ## WRITE and READ accepted (R64, R171, R172, R178, R179) -/

/-- Consecutive reads, byte by byte. -/
theorem Memory.getElem?_readList (name : BufferName) (draw : Nat) (m : Memory) : ∀ i n k, k < n →
    (m.readList name draw i n)[k]? = some (m.readAny name draw (i + k)) := by
  intro i n
  induction n generalizing i with
  | zero => intro k hk; omega
  | succ n ih =>
    intro k hk
    cases k with
    | zero => rfl
    | succ k => rw [Memory.readList, List.getElem?_cons_succ, ih (i + 1) k (by omega), Nat.add_right_comm, Nat.add_assoc]

/-- R64: the payload has the bytes that TXBUF holds. -/
theorem State.getElem?_payload {s : State} {i : Nat} {b : Byte} (hi : i < s.txlen) (hb : s.txbuf.read i = some b) :
    s.payload[i]? = some b := by
  rw [State.payload, Memory.getElem?_readList _ _ _ _ _ _ hi]
  simp [Memory.readAny, hb]

/-- R172: the start of a WRITE as one record. -/
theorem State.writeStart_eq (s : State) : s.writeStart = { s with
    framebuf := s.framebuf.writeList 0 (encInfo (cmdAddr s.role) s.txbit s.payload)
    framelen := (encInfo (cmdAddr s.role) s.txbit s.payload).length, result := .none, retry := 0
    stat := { s.stat with
      escaped := (s.stat.escaped + encInfoEsc s.payload) % 2 ^ s.build.cntW
      bytesSent := (s.stat.bytesSent + (encInfo (cmdAddr s.role) s.txbit s.payload).length) % 2 ^ s.build.cntW }
    tx := s.tx ++ encInfo (cmdAddr s.role) s.txbit s.payload
    rcv := { s.rcv with fsm := .awaitFlag }, tmr := s.timeOut, tarmed := true, op := .writeWait } := by
  simp only [State.writeStart, State.awaitAnswer, State.startRun, State.armTimer, State.txFrame, State.countEscaped,
    State.bumped]

/-- R171: where it is not refused, WRITE starts. -/
theorem exec_cmdWrite_of_accepted {s : State} (hop : s.op = .idle) (hf : s.openf = true)
    (hlen : s.txlen ≤ s.build.maxPayload) : exec .cmdWrite s = .next s.writeStart := by
  have hbusy : s.busy = false := by simp [State.busy, hop]
  have hok : s.writeRefused = false := by simp [State.writeRefused, hf, hlen]
  simp [exec, execWrite, hbusy, hok]

/-- R178: where it is not refused, READ starts. -/
theorem exec_cmdRead_of_accepted {s : State} (hop : s.op = .idle) (hf : s.openf = true) :
    exec .cmdRead s = .next s.readStart := by
  have hbusy : s.busy = false := by simp [State.busy, hop]
  have hok : s.readRefused = false := by simp [State.readRefused, hf]
  simp [exec, execRead, hbusy, hok]

/-- Settles O20: the payload is what TXBUF gives, and FRAMEBUF the buffer with the frame written from index 0. -/
theorem writeStarts : Obligations.WriteStarts := by
  unfold Obligations.WriteStarts
  intro s hop hf hlen
  refine ⟨s.payload, s.framebuf.writeList 0 (encInfo (cmdAddr s.role) s.txbit s.payload),
    ⟨Memory.length_readList .., fun i b => State.getElem?_payload⟩, fun i => ?_, ?_⟩
  · simp [Memory.read_writeList]
  · rw [exec_cmdWrite_of_accepted hop hf hlen, State.writeStart_eq]

/-- Settles O21: the state in which an accepted READ starts is the one named. -/
theorem readStarts : Obligations.ReadStarts := by
  unfold Obligations.ReadStarts
  intro s hop hf
  exact exec_cmdRead_of_accepted hop hf

end Sys2Proof.Machine
end

section
/-! PROOFS. Family 20_memory, the streams: what a step takes next, and from that what is sent and counted (O43), that an idle block takes no byte (O44, O36), that a WRITE sends whole copies of its frame (O50), and one instant of the environment (O60). -/

namespace Sys2Proof.Machine

open Sys2Proof.Config

/-! ## What a step takes next (R228, R231) -/

/-- What stands behind an event that is taken next. -/
inductive State.Ready (s : State) : Event → Prop where
  | reset (h : s.pend.rst = true) : s.Ready .reset
  | xportErr (h : s.pend.xportErr = true) : s.Ready .xportErr
  | rxByte (x : Byte) (rest : List Byte) (hop : s.op ≠ .idle) (hrx : s.rx = x :: rest) : s.Ready (.rxByte x)
  | timeout (ha : s.tarmed = true) (h0 : s.tmr = 0) : s.Ready .timeout
  | cmd (w : Nat) (h : s.pend.cmd = some w) : s.Ready (.cmd w)

theorem ready_of_readyEvent {s : State} {e : Event} (h : s.readyEvent = some e) : s.Ready e := by
  unfold State.readyEvent at h
  split at h
  · next hrst => cases h; exact .reset hrst
  split at h
  · next herr => cases h; exact .xportErr herr
  split at h
  · next x rest hv hrx =>
    cases h
    exact .rxByte x rest (fun hop => by simp [State.rxReady, State.busy, hop] at hv) hrx
  split at h
  · next hdue =>
    cases h
    obtain ⟨ha, h0⟩ : s.tarmed = true ∧ s.tmr = 0 := by simpa [State.timeoutDue] using hdue
    exact .timeout ha h0
  split at h
  · next w hw => cases h; exact .cmd w hw
  · cases h

/-- Where no event is ready the state is quiet: the converse of `readyEvent_of_quiet`. -/
theorem quiet_of_readyEvent {s : State} (h : s.readyEvent = none) : s.Quiet := by
  unfold State.readyEvent at h
  split at h
  · cases h
  next hrst =>
  split at h
  · cases h
  next herr =>
  split at h
  · cases h
  next hbyte =>
  split at h
  · cases h
  next hdue =>
  split at h
  · cases h
  next hcmd =>
  refine ⟨by simpa using hrst, by simpa using herr, ?_, ?_, hcmd⟩
  · by_contra hno
    obtain ⟨hv, hop, hrx⟩ : s.pend.rxValid = true ∧ s.op ≠ .idle ∧ s.rx ≠ [] := by simpa using hno
    obtain ⟨x, rest, hcons⟩ := List.exists_cons_of_ne_nil hrx
    exact hbyte x rest (by simp [hv, State.rxReady, State.busy, hop]) hcons
  · cases ha : s.tarmed
    · exact .inl rfl
    · exact .inr fun h0 => hdue (by simp [State.timeoutDue, ha, h0])

/-- A step takes an event, or none is ready and the environment moves. -/
theorem step_cases {s t : State} (h : step s = .next t) :
    (∃ e, s.dropPulses.Ready e ∧ s.dropPulses.takeEvent e = .next t) ∨
      s.Quiet ∧ s.dropPulses.nextInput = .next t := by
  unfold step at h
  simp only at h
  cases he : s.dropPulses.readyEvent with
  | some e => rw [he] at h; exact .inl ⟨e, ready_of_readyEvent he, h⟩
  | none =>
    rw [he] at h
    obtain ⟨hrst, herr, hbyte, htime, hcmd⟩ := quiet_of_readyEvent he
    exact .inr ⟨⟨hrst, herr, hbyte, htime, hcmd⟩, h⟩

/-- The environment's next move: none is left, bytes on the line, or an access of the host or the Transport. -/
theorem nextInput_cases {s t : State} (h : s.nextInput = .next t) :
    t = s ∨
    (∃ bs rest, t = State.receive bs { s with inputs := rest, pend := Lines.clear }) ∨
    ∃ m rest, s.inputs = m :: rest ∧ (∀ bs, m ≠ .line bs) ∧
      State.applyInput m { s with inputs := rest, pend := Lines.clear } = .next t := by
  cases hi : s.inputs with
  | nil =>
    simp only [State.nextInput, hi] at h
    cases h
    exact .inl rfl
  | cons m rest =>
    by_cases hm : ∃ bs, m = .line bs
    · obtain ⟨bs, rfl⟩ := hm
      obtain ⟨cs, hcs⟩ := exists_nextInput_line bs
      rw [hcs s rest hi] at h
      cases h
      exact .inr (.inl ⟨cs, rest, rfl⟩)
    · have hne : ∀ bs, m ≠ .line bs := fun bs hb => hm ⟨bs, hb⟩
      refine .inr (.inr ⟨m, rest, rfl, hne, ?_⟩)
      cases m with
      | line bs => exact absurd rfl (hne bs)
      | _ => simpa only [State.nextInput, hi] using h

/-- What an access of the host or the Transport does to the streams, the counters and the frame held (R61, R62, R228). -/
structure State.PortMove (m : Input) (s t : State) : Prop where
  op : t.op = s.op
  stat : t.stat = s.stat
  build : t.build = s.build
  framelen : t.framelen = s.framelen
  framebuf : t.framebuf = s.framebuf
  rx : ∃ arrived, t.rx = s.rx ++ arrived
  tx : t.tx = s.tx ∨ m = .txTake ∧ t.tx = s.tx.tail

theorem instant_portMove (m : Input) (rst xportErr : Bool) (arrive : List Byte) (rxValid tick : Bool)
    (cmd : Option Nat) (s : State) : s.PortMove m (s.instant rst xportErr arrive rxValid tick cmd) := by
  rw [State.instant_eq]
  exact ⟨rfl, rfl, rfl, rfl, rfl, ⟨arrive, rfl⟩, .inl rfl⟩

theorem applyInput_portMove {m : Input} {s t : State} (hm : ∀ bs, m ≠ .line bs) (h : s.applyInput m = .next t) :
    s.PortMove m t := by
  have hnone : ∃ arrived, s.rx = s.rx ++ arrived := ⟨[], by simp⟩
  cases m with
  | line bs => exact absurd rfl (hm bs)
  | instant rst xportErr arrive rxValid tick cmd => cases h; exact instant_portMove ..
  | regWrite n v =>
    unfold State.applyInput at h
    simp only at h
    split_ifs at h
    · cases h; exact instant_portMove ..
    · cases h; rw [State.regWrite_eq]; exact ⟨rfl, rfl, rfl, rfl, rfl, hnone, .inl rfl⟩
  | regRead n => cases h; exact ⟨rfl, rfl, rfl, rfl, rfl, hnone, .inl rfl⟩
  | txbufWrite i b =>
    obtain ⟨_, _, hw, -⟩ := writeTxbuf_cases i b s
    cases h; rw [hw]; exact ⟨rfl, rfl, rfl, rfl, rfl, hnone, .inl rfl⟩
  | txbufRead i =>
    obtain ⟨_, _, hr, -⟩ := readTxbuf_cases i s
    cases h; rw [hr]; exact ⟨rfl, rfl, rfl, rfl, rfl, hnone, .inl rfl⟩
  | rxbufRead i =>
    obtain ⟨_, _, hr, -⟩ := readRxbuf_cases i s
    cases h; rw [hr]; exact ⟨rfl, rfl, rfl, rfl, rfl, hnone, .inl rfl⟩
  | txTake => cases h; exact ⟨rfl, rfl, rfl, rfl, rfl, hnone, .inr ⟨rfl, rfl⟩⟩

/-! ## What is sent is counted (R62, R207, R209) -/

section
variable (s : State)

@[simp] theorem State.stepped_tx (x : Byte) : (s.stepped x).tx = s.tx := (rfl)
@[simp] theorem State.stepped_fresh (x : Byte) : (s.stepped x).fresh = s.fresh := (rfl)
@[simp] theorem State.timedOut_tx : s.timedOut.tx = s.tx := (rfl)
@[simp] theorem State.timedOut_fresh : s.timedOut.fresh = s.fresh := (rfl)
@[simp] theorem State.timedOut_stat :
    s.timedOut.stat = { s.stat with timeouts := s.bumped s.stat.timeouts 1 } := (rfl)
@[simp] theorem State.turnedDown_tx : s.turnedDown.tx = s.tx := (rfl)
@[simp] theorem State.turnedDown_fresh : s.turnedDown.fresh = s.fresh := (rfl)
@[simp] theorem State.turnedDown_stat :
    s.turnedDown.stat = { s.stat with rejRecv := s.bumped s.stat.rejRecv 1 } := (rfl)

end

/-- From s to t the TX stream has grown by the bytes sent, and STAT.bytesSent has counted them. -/
def State.Sends (s t : State) : Prop :=
  ∃ sent : List Byte, t.tx = s.tx ++ sent ∧ t.stat.bytesSent = s.bumped s.stat.bytesSent sent.length ∧
    t.build = s.build

namespace State.Sends

variable {s t u : State}

/-- A counter that holds a value of its width counts nothing when nothing is sent. -/
theorem refl (h : s.stat.bytesSent < 2 ^ s.build.cntW) : s.Sends s :=
  ⟨[], by simp, by simp [State.bumped, Nat.mod_eq_of_lt h], rfl⟩

/-- An update that sends nothing. -/
theorem silent (h : s.Sends t) (htx : u.tx = t.tx := by simp)
    (hcount : u.stat.bytesSent = t.stat.bytesSent := by simp) (hbuild : u.build = t.build := by simp) : s.Sends u := by
  unfold State.Sends
  rw [htx, hcount, hbuild]
  exact h

theorem txFrame (h : s.Sends t) (bs : List Byte) : s.Sends (t.txFrame bs) := by
  obtain ⟨sent, htx, hcount, hbuild⟩ := h
  refine ⟨sent ++ bs, by simp [htx], ?_, hbuild⟩
  simp only [State.txFrame_stat, State.bumped, hcount, hbuild, List.length_append, Nat.mod_add_mod, Nat.add_assoc]

theorem sendSet (h : s.Sends t) : s.Sends t.sendSet := by
  unfold State.sendSet
  split
  · exact h.txFrame _
  · exact h

theorem sendDisc (h : s.Sends t) : s.Sends t.sendDisc := by
  unfold State.sendDisc
  split
  · exact h.txFrame _
  · exact h

theorem resend (h : s.Sends t) : s.Sends t.resend := (h.txFrame t.heldFrame).silent

theorem writeRejected (h : s.Sends t) : s.Sends t.writeRejected := by
  have hdown : s.Sends t.turnedDown := h.silent
  obtain heq | ⟨-, heq⟩ := writeRejected_cases t <;> rw [heq]
  · exact hdown.silent
  · exact hdown.resend

theorem readAccepted (h : s.Sends t) : s.Sends t.readAccepted :=
  (h.txFrame (encCtrl (replyAddr t.role) (rrCode t.rxbit))).silent (hcount := rfl)

theorem readRejected (h : s.Sends t) : s.Sends t.readRejected :=
  (h.txFrame (encCtrl (replyAddr t.role) (rejCode t.rxbit))).silent (hcount := rfl)

/-- Each action on a received byte counts what it sends, in any state. -/
theorem keptByByteActions (s : State) : KeptByByteActions s.Sends where
  receiver _ _ h := h
  countReceived _ h := h
  handOver _ _ h := h
  bodyStep _ _ h := h
  sendUa _ h := h.txFrame _
  openDone _ h := h
  closeDone _ h := h.silent
  writeAcknowledged _ h := h.silent
  writeRejected _ h := h.writeRejected
  enterBody _ h := h
  readAccepted _ h := h.readAccepted
  readRejected _ h := h.readRejected

theorem receive (h : s.Sends t) (bs : List Byte) : s.Sends (t.receive bs) :=
  takeBytes_keeps (P := s.Sends) (fun _ _ h => h) (fun _ h => h)
    (fun _ x h _ => (keptByByteActions s).rxByte x h) _ _ h

theorem onTimeout (h : s.Sends t) (ha : t.tarmed = true) : s.Sends t.onTimeout := by
  have hout : s.Sends t.timedOut := h.silent
  have hm := onTimeout_moves ha
  generalize t.onTimeout = u at hm ⊢
  cases hm with
  | unreached => exact h.silent
  | openFails | writeFails | closeFails => exact hout.silent
  | openRetries => exact hout.sendSet.silent
  | writeRetries => exact hout.resend
  | closeRetries => exact hout.sendDisc.silent

theorem onXportErr (h : s.Sends t) : s.Sends t.onXportErr := by
  obtain ⟨-, heq⟩ | ⟨-, heq⟩ := onXportErr_cases t <;> rw [heq]
  · exact h
  · exact h

theorem writeStart (h : s.Sends t) : s.Sends t.writeStart :=
  (h.txFrame (encInfo (cmdAddr t.role) t.txbit t.payload)).silent (hcount := by rw [State.writeStart_eq]; rfl)

/-- R157: the frame an attempt of CLOSE sends. -/
theorem closeStart (h : s.Sends t) (c : Bool) : s.Sends (t.closeStart c) :=
  have hload : s.Sends { t with collect := c, retry := 0, result := .none } := h
  hload.sendDisc.silent (htx := rfl) (hcount := rfl)

end State.Sends

/-- R152: an accepted OPEN counts its bytes from 0. -/
theorem State.openStart_sends (s : State) : ∃ sent : List Byte,
    s.openStart.tx = s.tx ++ sent ∧ s.openStart.stat.bytesSent = sent.length % 2 ^ s.build.cntW := by
  have hload : State.Sends { s with
      role := s.cfgRole, numTries := s.cfgTries, timeOut := s.cfgTimeout, stat := Stats.zero
      txbit := false, rxbit := false, retry := 0, result := .none } s.openStart :=
    (State.Sends.refl (Nat.two_pow_pos _)).sendSet
  obtain ⟨sent, htx, hcount, -⟩ := hload
  exact ⟨sent, htx, by rw [hcount, State.bumped]; exact congrArg (· % _) (Nat.zero_add _)⟩

/-- A command counts what it sends, an accepted OPEN from 0. -/
theorem command_sends {s t : State} (w : Nat) (h : s.Sends t) :
    s.Sends (t.command w) ∨ t.op = .idle ∧ t.command w = t.openStart := by
  have hm := command_moves w t
  generalize t.command w = u at hm ⊢
  cases hm with
  | busy => exact .inl h
  | refused => exact .inl h
  | opens hop => exact .inr ⟨hop, rfl⟩
  | writes => exact .inl h.writeStart
  | reads => exact .inl h
  | closes _ _ c => exact .inl (h.closeStart c)

theorem takeEvent_sends {s t u : State} {e : Event} (h : s.Sends t) (hready : t.Ready e) (ht : t.takeEvent e = .next u) :
    t.pend.rst = true ∨ s.Sends u ∨ t.op = .idle ∧ ∃ pend, u = State.openStart { t with pend := pend } := by
  cases hready with
  | reset hrst => exact .inl hrst
  | xportErr =>
    cases ht
    have h' : s.Sends { t with pend := { t.pend with xportErr := false } } := h
    exact .inr (.inl h'.onXportErr)
  | rxByte x _ hop =>
    rw [takeEvent_rxByte x t hop] at ht
    cases ht
    exact .inr (.inl ((State.Sends.keptByByteActions s).rxByte x h))
  | timeout ha => cases ht; exact .inr (.inl (h.onTimeout ha))
  | cmd w =>
    rw [takeEvent_other t (by simp)] at ht
    have ht' := (exec_decodeCommand w _).symm.trans ht
    cases ht'
    have h' : s.Sends { t with pend := { t.pend with cmd := none } } := h
    rcases command_sends w h' with hs | ⟨hop, heq⟩
    · exact .inr (.inl hs)
    · exact .inr (.inr ⟨hop, _, heq⟩)

theorem nextInput_sends {s t u : State} (h : s.Sends t) (hno : ¬∃ rest, t.inputs = .txTake :: rest)
    (ht : t.nextInput = .next u) : s.Sends u := by
  obtain rfl | ⟨bs, rest, rfl⟩ | ⟨m, rest, hi, hm, ha⟩ := nextInput_cases ht
  · exact h
  · have h' : s.Sends { t with inputs := rest, pend := Lines.clear } := h
    exact h'.receive bs
  · have hp := applyInput_portMove hm ha
    rcases hp.tx with htx | ⟨rfl, -⟩
    · exact h.silent htx (by rw [hp.stat]) hp.build
    · exact absurd ⟨rest, hi⟩ hno

/-- Settles O43: each event and each move of the environment counts what it sends, but for the Transport's. -/
theorem sentBytesCounted : Obligations.SentBytesCounted := by
  unfold Obligations.SentBytesCounted
  refine ⟨fun s t h hrst hno hw => ?_, fun s rest hq hi => step_of_quiet hq hi (by simp)⟩
  have hrefl : s.Sends s.dropPulses := State.Sends.refl hw
  have hsent (hs : s.Sends t) : ∃ sent : List Byte, t.tx = s.tx ++ sent ∧
      (t.stat.bytesSent = (s.stat.bytesSent + sent.length) % 2 ^ s.build.cntW ∨
        s.op = .idle ∧ t.op = .openWait ∧ t.stat.bytesSent = sent.length % 2 ^ s.build.cntW) :=
    hs.imp fun _ ⟨htx, hcount, _⟩ => ⟨htx, .inl hcount⟩
  obtain ⟨e, hready, he⟩ | ⟨hq, hn⟩ := step_cases h
  · obtain hr | hs | ⟨hop, pend, rfl⟩ := takeEvent_sends hrefl hready he
    · simp [hrst] at hr
    · exact hsent hs
    · obtain ⟨sent, htx, hcount⟩ := State.openStart_sends { s.dropPulses with pend := pend }
      exact ⟨sent, htx, .inr ⟨hop, State.openStart_op _, hcount⟩⟩
  · exact hsent (nextInput_sends hrefl (fun hi => hno ⟨hq, hi⟩) hn)

/-! ## While OP is Idle the engine takes no byte (R61, R208) -/

theorem receive_of_idle {s : State} (h : s.op = .idle) (bs : List Byte) :
    s.receive bs = { s with rx := s.rx ++ bs } := takeBytes_of_idle (s := { s with rx := s.rx ++ bs }) h _

/-- R33, R189: a Timeout in an idle block lets only the timer's registers fall (log 19). -/
theorem onTimeout_of_idle {s : State} (hop : s.op = .idle) (ha : s.tarmed = true) : s.onTimeout = s.expire := by
  simp [State.onTimeout, hop, ha]

/-- R232, R250: a transport error does not touch the Transport's bytes, nor their counts. -/
theorem onXportErr_rx_stat (s : State) : s.onXportErr.rx = s.rx ∧ s.onXportErr.stat = s.stat := by
  obtain ⟨-, heq⟩ | ⟨-, heq⟩ := onXportErr_cases s <;> rw [heq] <;> exact ⟨rfl, rfl⟩

theorem sendSet_bytesRecv (s : State) : s.sendSet.stat.bytesRecv = s.stat.bytesRecv := by
  unfold State.sendSet
  split <;> rfl

theorem sendDisc_bytesRecv (s : State) : s.sendDisc.stat.bytesRecv = s.stat.bytesRecv := by
  unfold State.sendDisc
  split <;> rfl

/-- No command counts a byte taken; an accepted OPEN sets the count to 0 (R152). -/
theorem command_bytesRecv (w : Nat) (s : State) :
    (s.command w).stat.bytesRecv = s.stat.bytesRecv ∨
      (s.command w).stat.bytesRecv = 0 ∧ (s.command w).op = .openWait := by
  have hm := command_moves w s
  generalize s.command w = t at hm ⊢
  cases hm with
  | busy | refused | reads => exact .inl rfl
  | opens => exact .inr ⟨sendSet_bytesRecv _, State.openStart_op s⟩
  | writes => exact .inl (by rw [State.writeStart_eq])
  | closes _ _ c => exact .inl (sendDisc_bytesRecv { s with collect := c, retry := 0, result := .none })

/-- A command leaves the RX stream to the Transport. -/
theorem command_rx (w : Nat) (s : State) : (s.command w).rx = s.rx := by
  have hm := command_moves w s
  generalize s.command w = t at hm ⊢
  cases hm <;> simp

/-- Settles O36: an idle engine leaves the frame's bytes in the Transport. -/
theorem framesWaitWhileIdle : Obligations.FramesWaitWhileIdle := by
  unfold Obligations.FramesWaitWhileIdle
  intro s a hop
  exact ⟨fun c => congrArg Host.Outcome.next (receive_of_idle hop (encCtrl a c)),
    fun b p => congrArg Host.Outcome.next (receive_of_idle hop (encInfo a b p))⟩

/-- Settles O44: one case a move; the RxByte event asks for an operation in progress. -/
theorem bytesWaitWhileIdle : Obligations.BytesWaitWhileIdle := by
  unfold Obligations.BytesWaitWhileIdle
  intro s t h hop
  have hnone : s.rx = s.rx ++ [] := (List.append_nil _).symm
  have hline (bs : List Byte) (rest : List Input) :
      State.receive bs { s.dropPulses with inputs := rest, pend := Lines.clear } =
        { s.dropPulses with inputs := rest, pend := Lines.clear, rx := s.rx ++ bs } :=
    receive_of_idle (s := { s.dropPulses with inputs := rest, pend := Lines.clear }) hop bs
  cases step_moves h with
  | reset hrst => exact ⟨[], hnone, .inr ⟨rfl, .inl hrst⟩⟩
  | xportErr =>
    obtain ⟨hrx, hstat⟩ := onXportErr_rx_stat { s.dropPulses with pend := { s.pend with xportErr := false } }
    exact ⟨[], hrx.trans hnone, .inl (congrArg Stats.bytesRecv hstat)⟩
  | rxByte x rest hbusy => exact absurd hop hbusy
  | timeout ha => rw [onTimeout_of_idle (s := s.dropPulses) hop ha]; exact ⟨[], hnone, .inl rfl⟩
  | command w =>
    refine ⟨[], (command_rx w _).trans hnone, ?_⟩
    exact (command_bytesRecv w _).imp id fun ⟨hzero, hopen⟩ => ⟨hzero, .inr hopen⟩
  | wait => exact ⟨[], hnone, .inl rfl⟩
  | line bs m rest => rw [hline bs rest]; exact ⟨bs, rfl, .inl rfl⟩
  | input m rest _ _ ha =>
    by_cases hm : ∃ bs, m = .line bs
    · obtain ⟨bs, rfl⟩ := hm
      cases ha
      rw [hline bs rest]
      exact ⟨bs, rfl, .inl rfl⟩
    · have hp := applyInput_portMove (fun bs hb => hm ⟨bs, hb⟩) ha
      exact hp.rx.imp fun arrived hrx => ⟨hrx, .inl (by rw [hp.stat]; rfl)⟩

/-! ## A WRITE sends whole copies of the frame it holds (R66, R175, R176, R192) -/

/-- From s to t a WRITE has gone on with the frame it holds in s, and has sent whole copies of it. -/
structure State.Resends (s t : State) : Prop where
  op : t.op = .writeWait
  framelen : t.framelen = s.framelen
  framebuf : t.framebuf = s.framebuf
  fresh : t.fresh = s.fresh
  copies : ∃ n : Nat, t.tx = s.tx ++ (List.replicate n s.heldFrame).flatten

namespace State.Resends

variable {s t u : State}

theorem refl (hop : s.op = .writeWait) : s.Resends s := ⟨hop, rfl, rfl, rfl, 0, by simp⟩

/-- An update that touches neither the frame nor the TX stream. -/
theorem silent (h : s.Resends t) (hop : u.op = t.op := by simp) (hlen : u.framelen = t.framelen := by simp)
    (hbuf : u.framebuf = t.framebuf := by simp) (hfresh : u.fresh = t.fresh := by simp)
    (htx : u.tx = t.tx := by simp) : s.Resends u :=
  ⟨hop.trans h.op, hlen.trans h.framelen, hbuf.trans h.framebuf, hfresh.trans h.fresh, htx ▸ h.copies⟩

theorem resend (h : s.Resends t) : s.Resends t.resend := by
  have hframe : t.heldFrame = s.heldFrame := by simp only [State.heldFrame, h.framelen, h.framebuf, h.fresh]
  obtain ⟨n, htx⟩ := h.copies
  refine ⟨h.op, h.framelen, h.framebuf, h.fresh, n + 1, ?_⟩
  simp [htx, hframe, List.replicate_succ']

/-- A byte ends the WRITE, or lets it go on and sends a copy or nothing. -/
theorem byteMoves (h : s.Resends t) {x : Byte} (hm : t.ByteMoves x u) : u.op = .idle ∨ s.Resends u := by
  have hop := h.op
  cases hm with
  | fsm => exact .inr h.silent
  | acknowledged => exact .inl rfl
  | rejected =>
    have hdown : s.Resends (t.stepped x).turnedDown := h.silent
    obtain heq | ⟨-, heq⟩ := writeRejected_cases (t.stepped x) <;> rw [heq]
    · exact .inl rfl
    · exact .inr hdown.resend
  | bodyByte hne | bodyAccepted hne | bodyRejected hne | openSet hne | openUa hne | closeDisc hne | closeUa hne
  | header hne => simp [hop] at hne

theorem timeoutMoves (h : s.Resends t) (hm : t.TimeoutMoves u) : u.op = .idle ∨ s.Resends u := by
  have hop := h.op
  have hout : s.Resends t.timedOut := h.silent
  cases hm with
  | writeFails => exact .inl rfl
  | writeRetries => exact .inr hout.resend
  | unreached hne | openFails hne | closeFails hne | openRetries hne | closeRetries hne => simp [hop, Op.timed] at hne

theorem commandMoves (h : s.Resends t) (hm : t.CommandMoves u) : s.Resends u := by
  have hop := h.op
  cases hm with
  | busy => exact h
  | refused hne | opens hne | writes hne | reads hne | closes hne => simp [hop] at hne

/-- The engine takes bytes until one ends the WRITE. -/
theorem receive (h : s.Resends t) (hs : t.Sequenced) (bs : List Byte) :
    (t.receive bs).op = .idle ∨ s.Resends (t.receive bs) :=
  (takeBytes_keeps (P := fun u => u.Sequenced ∧ (u.op = .idle ∨ s.Resends u))
    (fun _ _ ⟨hs, h⟩ => ⟨hs.congr hs.latched, h.imp id (fun h => h.silent)⟩)
    (fun _ ⟨hs, h⟩ => ⟨hs.congr hs.latched, h.imp id (fun h => h.silent)⟩)
    (fun _ x ⟨hs, h⟩ hbusy =>
      have hm := rxByte_moves (x := x) hs hbusy
      ⟨hs.byteMoves hm, h.elim (fun hidle => absurd hidle hbusy) (fun h => h.byteMoves hm)⟩)
    (t.rx.length + bs.length) { t with rx := t.rx ++ bs } ⟨hs.congr hs.latched, .inr h.silent⟩).2

theorem takeEvent (h : s.Resends t) (hs : t.Sequenced) {e : Event} (hready : t.Ready e)
    (ht : t.takeEvent e = .next u) : u.op = .idle ∨ s.Resends u := by
  cases hready with
  | reset => cases ht; exact .inl rfl
  | xportErr =>
    cases ht
    obtain ⟨hidle, -⟩ | ⟨-, heq⟩ := onXportErr_cases { t with pend := { t.pend with xportErr := false } }
    · simp [h.op] at hidle
    · exact .inl (congrArg State.op heq)
  | rxByte x _ hop =>
    rw [takeEvent_rxByte x t hop] at ht
    cases ht
    have h' : s.Resends { t with pend := { t.pend with rxValid := false }, rx := t.rx.tail } := h.silent
    exact h'.byteMoves (rxByte_moves (hs.congr hs.latched) hop)
  | timeout ha => cases ht; exact h.timeoutMoves (onTimeout_moves ha)
  | cmd w =>
    rw [takeEvent_other t (by simp)] at ht
    have ht' := (exec_decodeCommand w _).symm.trans ht
    cases ht'
    have h' : s.Resends { t with pend := { t.pend with cmd := none } } := h.silent
    exact .inr (h'.commandMoves (command_moves w _))

end State.Resends

/-- A step of a WRITE is an event that ends it or lets it go on, or an access of the host or the Transport. -/
theorem step_resends {s t : State} (hs : s.Sequenced) (hop : s.op = .writeWait) (h : step s = .next t) :
    t.op = .idle ∨ s.Resends t ∨ ∃ m rest, s.Quiet ∧ s.inputs = m :: rest ∧ s.PortMove m t := by
  have hrefl : s.Resends s.dropPulses := (State.Resends.refl hop).silent
  have hdrop : s.dropPulses.Sequenced := hs.congr hs.latched
  obtain ⟨e, hready, he⟩ | ⟨hq, hn⟩ := step_cases h
  · exact (hrefl.takeEvent hdrop hready he).imp id .inl
  · obtain rfl | ⟨bs, rest, rfl⟩ | ⟨m, rest, hi, hm, ha⟩ := nextInput_cases hn
    · exact .inr (.inl hrefl)
    · exact (State.Resends.receive hrefl.silent (hs.congr (by simp [Lines.clear])) bs).imp id .inl
    · exact .inr (.inr ⟨m, rest, hq, hi, { applyInput_portMove hm ha with }⟩)

/-- Settles O50: of the environment's accesses only the Transport's touches the TX stream. -/
theorem retransmissionsIdentical : Obligations.RetransmissionsIdentical := by
  unfold Obligations.RetransmissionsIdentical
  intro s t hs hop h hgoes
  obtain hidle | hsent | ⟨m, rest, hq, hi, hp⟩ := step_resends hs hop h
  · simp [hgoes] at hidle
  · exact ⟨hsent.framelen, fun i => by rw [hsent.framebuf], .inr hsent.copies⟩
  · refine ⟨hp.framelen, fun i => by rw [hp.framebuf], ?_⟩
    rcases hp.tx with htx | ⟨rfl, htx⟩
    · exact .inr ⟨0, by simpa using htx⟩
    · exact .inl ⟨hq, ⟨rest, hi⟩, htx⟩

/-! ## One instant (R61, R63, R185, R237) -/

/-- Settles O60: the instant as one record, in the state in which the environment moves. -/
theorem instantRaisesEvents : Obligations.InstantRaisesEvents := by
  unfold Obligations.InstantRaisesEvents
  intro s rst xportErr arrive rxValid tick cmd rest hq hi
  have hready : (rxValid && (s.afterMove rest).rxReady) = if s.op = .idle then false else rxValid := by
    cases hop : s.op <;> simp [State.rxReady, State.busy, State.afterMove, hop]
  have hlatch : (s.afterMove rest).latchCmd cmd = if s.op = .idle then cmd else none := by
    cases hop : s.op <;> simp [State.latchCmd, State.busy, State.afterMove, hop]
  rw [step_of_quiet hq hi (by simp), State.applyInput, State.instant_eq, hready, hlatch]
  rfl

end Sys2Proof.Machine
end

section
/-! PROOFS. Family 20_memory, single rows: the wire codes as instructions (O24, O25) and the host's access to the buffers (O42). -/

namespace Sys2Proof.Machine

open Sys2Proof.Config

/-! ## The wire codes as instructions (R136, R143; logs 12, 13, 14) -/

/-- Every spelling of RR(b) runs the action on an accepted RR(b) (R88, R174). -/
theorem exec_of_rr_spelling {i : Instr} {b : Bool} (h : i = .rr b ∨ i = .rr0 ∧ b = false ∨ i = .rr1 ∧ b = true)
    (s : State) : exec i s = .next (s.onRr b) := by
  rcases h with rfl | ⟨rfl, rfl⟩ | ⟨rfl, rfl⟩ <;> rfl

/-- Every spelling of REJ(b) runs the action on an accepted REJ(b) (R88, R175). -/
theorem exec_of_rej_spelling {i : Instr} {b : Bool} (h : i = .rej b ∨ i = .rej0 ∧ b = false ∨ i = .rej1 ∧ b = true)
    (s : State) : exec i s = .next (s.onRej b) := by
  rcases h with rfl | ⟨rfl, rfl⟩ | ⟨rfl, rfl⟩ <;> rfl

/-- R174: RR of the send bit while WRITE waits. -/
theorem onRr_of_writeWait {s : State} (hop : s.op = .writeWait) :
    s.onRr s.txbit = State.writeAcknowledged { s with rcv := { s.rcv with fsm := .done, ctrl := rrCode s.txbit } } :=
  if_pos (by simp [State.expected, hop, expectedControls])

/-- R175: REJ of the send bit while WRITE waits. -/
theorem onRej_of_writeWait {s : State} (hop : s.op = .writeWait) :
    s.onRej s.txbit = State.writeRejected { s with rcv := { s.rcv with fsm := .done, ctrl := rejCode s.txbit } } :=
  if_pos (by simp [State.expected, hop, expectedControls])

/-- R32: within the budget the increment of RETRY does not wrap (log 24). -/
theorem State.bumpRetry_eq {s : State} (hretry : s.retry ≤ s.numTries) (hwidth : s.numTries < 2 ^ s.build.triesW) :
    s.bumpRetry = { s with retry := s.retry + 1 } := by
  have hlt : s.retry + 1 < 2 ^ (s.build.triesW + 1) := by rw [Nat.pow_succ]; omega
  rw [State.bumpRetry, Nat.mod_eq_of_lt hlt]

theorem State.turnedDown_eq {s : State} (hretry : s.retry ≤ s.numTries) (hwidth : s.numTries < 2 ^ s.build.triesW) :
    s.turnedDown = { s with
      retry := s.retry + 1, stat := { s.stat with rejRecv := (s.stat.rejRecv + 1) % 2 ^ s.build.cntW } } :=
  State.bumpRetry_eq (s := s.countRejReceived) hretry hwidth

/-- R188: the REJ that passes the budget ends the WRITE. -/
theorem writeRejected_of_exhausted {s : State} (h : s.turnedDown.exhausted = true) :
    s.writeRejected = s.turnedDown.disarmTimer.finish .retriesExhausted := if_pos h

/-- R175: within the budget the frame held is sent again. -/
theorem writeRejected_of_not_exhausted {s : State} (h : s.turnedDown.exhausted = false) :
    s.writeRejected = s.turnedDown.resend := if_neg (Bool.eq_false_iff.mp h)

/-- Settles O24: the expected code is accepted; REJ then compares RETRY, one higher, with NUM_TRIES. -/
theorem acknowledgementCodesAct : Obligations.AcknowledgementCodesAct := by
  unfold Obligations.AcknowledgementCodesAct
  rintro s _ i hop rfl hretry hwidth
  refine ⟨fun hi => ?_, fun hi => ?_⟩
  · rw [exec_of_rr_spelling hi, onRr_of_writeWait hop]; rfl
  · rw [exec_of_rej_spelling hi, onRej_of_writeWait hop]
    generalize hu : ({ s with rcv := { s.rcv with fsm := .done, ctrl := rejCode s.txbit } } : State) = u
    have hdown := State.turnedDown_eq (s := u) (by rw [← hu]; exact hretry) (by rw [← hu]; exact hwidth)
    refine ⟨fun heq => ?_, fun hlt => ?_⟩
    · rw [writeRejected_of_exhausted (by rw [hdown, ← hu]; simp [State.exhausted, heq]), hdown, ← hu]
      rfl
    · rw [writeRejected_of_not_exhausted (by rw [hdown, ← hu]; simp [State.exhausted]; omega), hdown, ← hu]
      simp only [State.resend, State.awaitAnswer, State.startRun, State.armTimer, State.txFrame, State.bumped,
        State.heldFrame, Memory.length_readList]

/-- Each instruction with a control byte runs some operation's action on an accepted frame of that byte (R87, R88). -/
theorem exec_of_encode_control {i : Instr} {c : Byte} (h : encode i = some (.control c)) :
    ∃ act, ∀ s : State, exec i s = .next (s.acceptCode c act) := by
  have hcode {c' : Byte} (hc : encode i = some (.control c')) : c = c' := by
    rw [hc] at h; cases h; rfl
  cases i with
  | set | disc | ua | rr0 | rr1 | rej0 | rej1 | i0 | i1 => obtain rfl := hcode rfl; exact ⟨_, fun _ => rfl⟩
  | rr b => rw [(hcode rfl).trans (codes_eq_or_shift b).1.symm]; exact ⟨_, fun _ => rfl⟩
  | rej b => rw [(hcode rfl).trans (codes_eq_or_shift b).2.1.symm]; exact ⟨_, fun _ => rfl⟩
  | info b => rw [(hcode rfl).trans (codes_eq_or_shift b).2.2.symm]; exact ⟨_, fun _ => rfl⟩
  | _ => cases h

/-- R133, R143: a code that the run in progress does not expect resyncs the FSM. -/
theorem acceptCode_of_running {s : State} {c : Byte} (act : State → State) (hop : s.op.runsFsm = true)
    (hc : c ∉ s.expected) : s.acceptCode c act = s.startRun := by
  rw [State.acceptCode, if_neg hc, if_pos hop]

/-- R28, R61: where no run is in progress a code changes nothing. -/
theorem acceptCode_of_not_running {s : State} (c : Byte) (act : State → State) (hop : s.op = .idle ∨ s.op = .readBody) :
    s.acceptCode c act = s := by
  rcases hop with hop | hop <;> simp [State.acceptCode, State.expected, hop, expectedControls, Op.runsFsm]

/-- Settles O25: whatever action the code stands for, it is not expected. -/
theorem unexpectedCodesSkipped : Obligations.UnexpectedCodesSkipped := by
  unfold Obligations.UnexpectedCodesSkipped
  intro s i c hi
  obtain ⟨act, hact⟩ := exec_of_encode_control hi
  have hskip (hop : s.op.runsFsm = true) (hc : c ∉ expectedControls s.op s.txbit s.rxbit) :
      exec i s = .next { s with rcv := { s.rcv with fsm := .awaitFlag } } := by
    rw [hact, acceptCode_of_running act hop hc]; rfl
  refine ⟨fun hop h1 h2 => ?_, fun hop h1 h2 => ?_, fun hop h1 h2 => ?_, fun hop h1 => ?_, fun hop => ?_⟩
  · exact hskip (by rw [hop]; rfl) (by simp [hop, expectedControls, show c ≠ SET from h1, show c ≠ UA from h2])
  · exact hskip (by rw [hop]; rfl) (by simp [hop, expectedControls, show c ≠ DISC from h1, show c ≠ UA from h2])
  · exact hskip (by rw [hop]; rfl) (by simp [hop, expectedControls, h1, h2])
  · exact hskip (by rw [hop]; rfl) (by simp [hop, expectedControls, h1])
  · rw [hact, acceptCode_of_not_running c act hop]

/-! ## The host's access to the buffers (R64, R65; logs 6, 8) -/

/-- Settles O42, from what each access can do. -/
theorem hostBufferAccess : Obligations.HostBufferAccess := by
  unfold Obligations.HostBufferAccess
  intro s i rest hq
  refine ⟨fun b hi => ?_, fun hi => ?_, fun hi => ?_⟩
  · obtain ⟨m, n, hw, hone, hin⟩ := writeTxbuf_cases i b (s.afterMove rest)
    have hstep : step s = .next { s.afterMove rest with txbuf := m, fresh := n } := by
      rw [step_of_quiet hq hi (by simp), State.applyInput, hw]
    refine ⟨fun hlt => ?_, fun _ => ⟨_, hstep, rfl, ?_⟩⟩
    · obtain ⟨rfl, rfl⟩ := hin hlt
      exact ⟨_, hstep, rfl, fun k => Memory.read_write s.txbuf i k b⟩
    · rcases hone with rfl | ⟨j, hj, rfl⟩
      · exact .inl fun _ => rfl
      · exact .inr ⟨j, hj, fun k => Memory.read_write s.txbuf j k b⟩
  · obtain ⟨v, n, hr, hin⟩ := readTxbuf_cases i (s.afterMove rest)
    exact ⟨v, n, by rw [step_of_quiet hq hi (by simp), State.applyInput, hr], hin⟩
  · obtain ⟨v, n, hr, hin⟩ := readRxbuf_cases i (s.afterMove rest)
    exact ⟨v, n, by rw [step_of_quiet hq hi (by simp), State.applyInput, hr], hin⟩

end Sys2Proof.Machine
end

section
/-! PROOFS. Family 30_encoding, the three encodings: decode and encode agree (O5, O6), and the words and frames written out (O1, O2, O4). -/

namespace Sys2Proof

open Sys2Proof.Config Sys2Proof.Machine

/-! ## Words and frames written out (R81, R82, R87, R90, R100) -/

/-- Settles O1, by computing each word. -/
theorem wordsDecode : Obligations.WordsDecode := by
  unfold Obligations.WordsDecode
  decide

/-- Settles O4: the control frames and the headers by computing them; no header byte depends on the payload. -/
theorem framesByRole : Obligations.FramesByRole := by
  unfold Obligations.FramesByRole
  exact ⟨rfl, rfl, rfl, rfl, fun _ => ⟨rfl, rfl, rfl, rfl⟩⟩

/-- R100: CMD[3]. -/
theorem testBit_three_eq (w : Nat) : w.testBit 3 = (w / 8 % 2 == 1) := by
  rw [Nat.testBit_eq_decide_div_mod_eq]
  rfl

/-- Settles O2: the residue of the word picks the branch of the decoder. -/
theorem commandWordDecodes : Obligations.CommandWordDecodes := by
  unfold Obligations.CommandWordDecodes
  intro w
  rw [testBit_three_eq]
  refine ⟨?_, ?_, ?_, ?_, ?_, ?_, ?_, ?_⟩ <;> intro h <;> simp [decode, decodeCommand, h]

/-! ## Decode of encode (R81, R82, R85, R87, R100) -/

/-- R88: bit 6 tells the two information codes apart. -/
theorem infoCode_seqOfInfo {c : Byte} (h : isInfo c = true) : infoCode (seqOfInfo c) = c := by
  have hc : c = infoCode false ∨ c = infoCode true := by simpa [isInfo] using h
  rcases hc with rfl | rfl <;> rw [seqOfInfo_infoCode]

theorem isInfo_infoCode (b : Bool) : isInfo (infoCode b) = true := by cases b <;> rfl

theorem infoCode_mem_controlCodes (b : Bool) : infoCode b ∈ controlCodes := by cases b <;> decide

theorem encode_ctrlFrame (a c : Byte) : encode (.ctrlFrame a c) = some (.frame (encCtrl a c)) := rfl

theorem encode_infoFrame (a : Byte) (b : Bool) (p : List Byte) :
    encode (.infoFrame a b p) = some (.frame (encInfo a b p)) := by
  obtain ⟨-, -, hcode⟩ := codes_eq_or_shift b
  rw [encode, show I0 ||| (bitByte b <<< 6) = infoCode b from hcode.symm]
  simp [encInfo, bcc1, stuffSeq_append, stuffSeq_singleton]

theorem decodeFrame_encCtrl {a c : Byte} (ha : a ∈ validAddresses) (hc : c ∈ controlCodes) (hi : isInfo c = false)
    (tail : List Byte) : decodeFrame (encCtrl a c ++ tail) = .ok (.ctrlFrame a c, tail) := by
  simp [decodeFrame, encCtrl, ha, hc, hi]

theorem decodeFrame_encInfo {a : Byte} (ha : a ∈ validAddresses) (b : Bool) (p tail : List Byte) :
    decodeFrame (encInfo a b p ++ tail) = .ok (.infoFrame a b p, tail) := by
  rw [encInfo_append]
  simp [decodeFrame, bcc1, ha, infoCode_mem_controlCodes, isInfo_infoCode, destuffBody_stuffSeq, splitBody_bcc2]

/-- A byte sequence that is one whole frame, with nothing behind it. -/
theorem decode_frame_of_append_nil {f : List Byte} {i : Instr} (h : decodeFrame (f ++ []) = .ok (i, [])) :
    decode (.frame f) = .ok i := by
  rw [List.append_nil] at h
  rw [decode, h]

/-- Settles O5: a control byte or a command word is computed for each value of the operand; a frame is read back from
its header and, for an information frame, its stuffed body. -/
theorem decodeOfEncode : Obligations.DecodeOfEncode := by
  unfold Obligations.DecodeOfEncode
  intro p i e hwf he
  cases i with
  | set | disc | ua | rr0 | rr1 | rej0 | rej1 | i0 | i1 => cases he; rfl
  | rr b | rej b | info b => cases he; cases b <;> rfl
  | cmdOpen | cmdWrite | cmdRead | cmdReserved0 | cmdReserved5 | cmdReserved6 | cmdReserved7 => cases he; rfl
  | cmdClose collect => cases he; cases collect <;> rfl
  | ctrlFrame a c =>
    obtain ⟨ha, hc, hi⟩ : a ∈ validAddresses ∧ c ∈ controlCodes ∧ isInfo c = false := by
      simpa [Instr.wellFormed, addressOk, controlCodeOk] using hwf
    rw [encode_ctrlFrame] at he
    cases he
    exact decode_frame_of_append_nil (decodeFrame_encCtrl ha hc hi [])
  | infoFrame a b bs =>
    obtain ⟨ha, -⟩ : a ∈ validAddresses ∧ bs.length ≤ p.maxPayload := by
      simpa [Instr.wellFormed, addressOk, payloadOk] using hwf
    rw [encode_infoFrame] at he
    cases he
    exact decode_frame_of_append_nil (decodeFrame_encInfo ha b bs [])
  | _ => cases he

/-! ## Encode of decode (R80 to R82, R85, R87; log 23) -/

/-- R87: a control byte that decodes is the code of what it decodes to. -/
theorem encode_of_decodeControl {c : Byte} {i : Instr} (h : decodeControl c = .ok i) :
    encode i = some (.control c) := by
  unfold decodeControl at h
  split_ifs at h <;> cases h <;> subst c <;> rfl

/-! R113: the two cases of STUFF. -/
theorem stuff_of_needsEscape {d : Byte} (h : needsEscape d = true) : stuff d = [ESC, d ^^^ ESC_XOR] := if_pos h

theorem stuff_of_ne {x : Byte} (hf : x ≠ FLAG) (he : x ≠ ESC) : stuff x = [x] :=
  if_neg (by simp [needsEscape, hf, he])

/-- R85: what the decoder reads of a body, after an ESC or not, is the stuffing of the data bytes and a closing FLAG. -/
theorem eq_stuffSeq_of_destuffBody (esc : Bool) (bs data rest : List Byte) (h : destuffBody esc bs = .ok (data, rest)) :
    (if esc then ESC :: bs else bs) = stuffSeq data ++ FLAG :: rest := by
  fun_induction destuffBody esc bs generalizing data rest with
  | case1 => cases h
  | case2 => cases h; rfl
  | case3 xs hne ih => exact ih data rest h
  | case4 x xs hf he data' rest' hok ih =>
    cases h
    have hxs : xs = stuffSeq data' ++ FLAG :: rest' := by simpa using ih data' rest' hok
    simp [stuffSeq, stuff_of_ne hf he, ← hxs]
  | case5 | case6 => cases h
  | case7 x xs hf hd data' rest' hok ih =>
    cases h
    have hxs : xs = stuffSeq data' ++ FLAG :: rest' := by simpa using ih data' rest' hok
    simp [stuffSeq, stuff_of_needsEscape hd, ← hxs]
  | case8 | case9 => cases h

/-- R94: the data bytes of a body are its payload and BCC2. -/
theorem eq_append_bcc2_of_splitBody {data p : List Byte} (h : splitBody data = .ok p) : data = p ++ [bcc2 p] := by
  unfold splitBody at h
  split at h
  · cases h
  · next b hb =>
    split_ifs at h with hbcc
    cases h
    rw [hbcc]
    exact (List.dropLast_append_getLast? b hb).symm

/-- R80 to R82: a frame that decodes is the encoding of what it decodes to, followed by the bytes left over. -/
theorem encode_of_decodeFrame {bs rest : List Byte} {i : Instr} (h : decodeFrame bs = .ok (i, rest)) :
    ∃ f, encode i = some (.frame f) ∧ bs = f ++ rest := by
  unfold decodeFrame at h
  split at h
  case h_2 => cases h
  case h_1 f a c b body =>
    split_ifs at h with hflag ha hc hbcc hinfo
    · split at h
      · cases h
      · next data tail hdata =>
        split at h
        · cases h
        · next p hsplit =>
          cases h
          refine ⟨_, encode_infoFrame a (seqOfInfo c) p, ?_⟩
          have hbody : body = stuffSeq data ++ FLAG :: rest := eq_stuffSeq_of_destuffBody false body data rest hdata
          rw [encInfo_append, ← eq_append_bcc2_of_splitBody hsplit, ← hbody, infoCode_seqOfInfo hinfo,
            not_not.mp hflag, not_not.mp hbcc, bcc1]
    · split at h
      · cases h
      · next g tail =>
        split_ifs at h with hg
        cases h
        exact ⟨_, encode_ctrlFrame a c, by rw [not_not.mp hflag, not_not.mp hbcc, hg]; rfl⟩

/-- Settles O6, the two encodings apart. -/
theorem encodeOfDecode : Obligations.EncodeOfDecode := by
  unfold Obligations.EncodeOfDecode
  intro e i hword h
  cases e with
  | control c => exact encode_of_decodeControl h
  | command w => exact absurd rfl (hword w)
  | frame bs =>
    rw [decode] at h
    split at h
    · cases h
    · next j hok =>
      cases h
      obtain ⟨f, hf, rfl⟩ := encode_of_decodeFrame hok
      rw [List.append_nil, hf]
    · cases h

end Sys2Proof
end

section
/-! PROOFS. Family 30_encoding, information frames: their shape (O10), and DEC_INFO among other bytes (O12). -/

namespace Sys2Proof.Machine

open Sys2Proof.Config

/-! ## The bytes of an information frame (R80, R83, R93, R113, R116) -/

/-- R86, R87, R93: neither an address, nor a control code, nor their BCC1 is a byte that is stuffed. -/
theorem header_ne_flag_and_ne_esc :
    ∀ a ∈ validAddresses, ∀ c ∈ controlCodes, ∀ x ∈ [a, c, bcc1 a c], x ≠ FLAG ∧ x ≠ ESC := by
  decide

/-- R113: the four bytes that STUFF writes for a FLAG or an ESC. -/
theorem stuff_cases (d : Byte) :
    stuff d = [ESC, 0x7C] ∨ stuff d = [ESC, 0x7D] ∨ d ≠ FLAG ∧ d ≠ ESC ∧ stuff d = [d] := by
  by_cases hf : d = FLAG
  · exact .inl (by rw [hf]; rfl)
  by_cases he : d = ESC
  · exact .inr (.inl (by rw [he]; rfl))
  exact .inr (.inr ⟨hf, he, stuff_of_ne hf he⟩)

theorem flag_not_mem_stuff (d : Byte) : FLAG ∉ stuff d := by
  rcases stuff_cases d with h | h | ⟨hf, -, h⟩ <;> rw [h]
  · decide
  · decide
  · simpa using hf.symm

/-- R83: a stuffed sequence holds no FLAG. -/
theorem flag_not_mem_stuffSeq (s : List Byte) : FLAG ∉ stuffSeq s := by
  induction s with
  | nil => simp [stuffSeq]
  | cons d s ih => simp [stuffSeq, flag_not_mem_stuff, ih]

/-- R80, R82: what stands between the two FLAGs of an information frame. -/
def infoInner (a : Byte) (b : Bool) (p : List Byte) : List Byte :=
  [a, infoCode b, bcc1 a (infoCode b)] ++ stuffSeq (p ++ [bcc2 p])

theorem encInfo_eq_enclosed (a : Byte) (b : Bool) (p : List Byte) :
    encInfo a b p = FLAG :: (infoInner a b p ++ [FLAG]) := by
  simp [encInfo, infoInner, stuffSeq_append, stuffSeq_singleton]

theorem length_encInfo_body (a : Byte) (b : Bool) (p : List Byte) :
    (encInfo a b p).length = (stuffSeq (p ++ [bcc2 p])).length + 1 + 4 := by
  rw [encInfo_eq_enclosed, infoInner]
  simp

theorem flag_not_mem_infoInner {a : Byte} (ha : a ∈ validAddresses) (b : Bool) (p : List Byte) :
    FLAG ∉ infoInner a b p := by
  intro h
  rcases List.mem_append.mp h with h | h
  · exact (header_ne_flag_and_ne_esc a ha _ (infoCode_mem_controlCodes b) _ h).1 rfl
  · exact flag_not_mem_stuffSeq _ h

/-- A byte that encloses a list and is not in it stands at the two ends only. -/
theorem getElem?_enclosed_iff {x : Byte} {inner : List Byte} (h : x ∉ inner) (i : Nat) :
    (x :: (inner ++ [x]))[i]? = some x ↔ i = 0 ∨ i + 1 = (x :: (inner ++ [x])).length := by
  cases i with
  | zero => simp
  | succ i =>
    rw [List.getElem?_cons_succ, List.length_cons, List.length_append, List.length_singleton]
    rcases lt_trichotomy i inner.length with hlt | rfl | hgt
    · have hne : inner[i]? ≠ some x := fun hx => h (List.mem_of_getElem? hx)
      rw [List.getElem?_append_left hlt]
      simp [hne]
      omega
    · simp
    · rw [List.getElem?_eq_none (by simp; omega)]
      simp
      omega

/-- R83, R85: each ESC is followed by 0x7C or 0x7D. -/
def EscapesCanonical (bs : List Byte) : Prop :=
  ∀ i : Nat, bs[i]? = some ESC → bs[i + 1]? = some 0x7C ∨ bs[i + 1]? = some 0x7D

namespace EscapesCanonical

theorem cons_of_ne {x : Byte} {bs : List Byte} (hx : x ≠ ESC) (h : EscapesCanonical bs) : EscapesCanonical (x :: bs)
  | 0, he => absurd (by simpa using he) hx
  | i + 1, he => h i he

theorem cons_esc {x : Byte} {bs : List Byte} (hx : x = 0x7C ∨ x = 0x7D) (h : EscapesCanonical bs) :
    EscapesCanonical (ESC :: x :: bs)
  | 0, _ => by simpa using hx
  | i + 1, he => cons_of_ne (by rcases hx with rfl | rfl <;> decide) h i he

theorem append {hd bs : List Byte} (hhd : ∀ x ∈ hd, x ≠ ESC) (h : EscapesCanonical bs) :
    EscapesCanonical (hd ++ bs) := by
  induction hd with
  | nil => exact h
  | cons x hd ih =>
    obtain ⟨hx, hrest⟩ := List.forall_mem_cons.mp hhd
    exact cons_of_ne hx (ih hrest)

theorem stuff_append {bs : List Byte} (d : Byte) (h : EscapesCanonical bs) : EscapesCanonical (stuff d ++ bs) := by
  rcases stuff_cases d with hd | hd | ⟨-, he, hd⟩ <;> rw [hd]
  · exact cons_esc (.inl rfl) h
  · exact cons_esc (.inr rfl) h
  · exact cons_of_ne he h

theorem stuffSeq_append {bs : List Byte} (s : List Byte) (h : EscapesCanonical bs) :
    EscapesCanonical (stuffSeq s ++ bs) := by
  induction s with
  | nil => exact h
  | cons d s ih =>
    rw [stuffSeq, List.append_assoc]
    exact stuff_append d ih

end EscapesCanonical

theorem encInfo_escapesCanonical {a : Byte} (ha : a ∈ validAddresses) (b : Bool) (p : List Byte) :
    EscapesCanonical (encInfo a b p) := by
  have hheader : ∀ x ∈ [a, infoCode b, bcc1 a (infoCode b)], x ≠ ESC := fun x hx =>
    (header_ne_flag_and_ne_esc a ha _ (infoCode_mem_controlCodes b) x hx).2
  have hclose : EscapesCanonical [FLAG] := .cons_of_ne (by decide) (by simp [EscapesCanonical])
  rw [encInfo_eq_enclosed, infoInner, List.append_assoc]
  exact .cons_of_ne (by decide) (.append hheader (.stuffSeq_append _ hclose))

/-- Settles O10: FLAG encloses the frame and does not stand inside; each part of the frame is canonical. -/
theorem informationFrameShape : Obligations.InformationFrameShape := by
  unfold Obligations.InformationFrameShape
  intro a b p ha
  have hlen := length_encInfo a b p
  refine ⟨fun i => ?_, encInfo_escapesCanonical ha b p, hlen, by omega, length_encInfo_le a b p⟩
  rw [encInfo_eq_enclosed]
  exact getElem?_enclosed_iff (flag_not_mem_infoInner ha b p) i

/-! ## One step of the FSM at a time over a header (R131 to R135) -/

section
variable {va ec : List Byte}

/-- R132: bytes other than FLAG do not start a frame. -/
theorem fsmNext_awaitFlag_of_ne {x : Byte} {r : Receiver} (hr : r.fsm = .awaitFlag) (hx : x ≠ FLAG) :
    fsmNext va ec x r = r := by
  obtain ⟨fsm, addr, ctrl⟩ := r
  cases hr
  simp [fsmNext, hx]

/-- R132, R133: a FLAG starts a frame, and a FLAG behind it starts it again. -/
theorem fsmNext_flag {r : Receiver} (hva : FLAG ∉ va) (hr : r.fsm = .awaitFlag ∨ r.fsm = .awaitAddress) :
    fsmNext va ec FLAG r = { r with fsm := .awaitAddress } := by
  rcases hr with hr | hr <;> simp [fsmNext, hr, hva]

theorem fsmNext_address {a : Byte} {r : Receiver} (hr : r.fsm = .awaitAddress) (ha : a ∈ va) :
    fsmNext va ec a r = { r with fsm := .awaitControl, addr := a } := by
  simp [fsmNext, hr, ha]

theorem fsmNext_control {c : Byte} {r : Receiver} (hr : r.fsm = .awaitControl) (hc : c ∈ ec) :
    fsmNext va ec c r = { r with fsm := .awaitBcc1, ctrl := c } := by
  simp [fsmNext, hr, hc]

/-- R134: behind the right BCC1 a control frame still waits for its FLAG. -/
theorem fsmNext_bcc1_of_ctrl {a c : Byte} (hi : isInfo c = false) :
    fsmNext va ec (bcc1 a c) { fsm := .awaitBcc1, addr := a, ctrl := c } =
      { fsm := .awaitTrailingFlag, addr := a, ctrl := c } := by
  simp [fsmNext, hi]

/-- R134: the right BCC1 completes the header of an information frame. -/
theorem fsmNext_bcc1_of_info {a c : Byte} (hi : isInfo c = true) :
    fsmNext va ec (bcc1 a c) { fsm := .awaitBcc1, addr := a, ctrl := c } = { fsm := .done, addr := a, ctrl := c } := by
  simp [fsmNext, hi]

theorem fsmNext_trailingFlag {r : Receiver} (hr : r.fsm = .awaitTrailingFlag) :
    fsmNext va ec FLAG r = { r with fsm := .done } := by
  simp [fsmNext, hr]

end

theorem flag_not_mem_validAddresses : FLAG ∉ validAddresses := by decide

/-! ## DEC_INFO among other bytes (R120, R122, R132) -/

/-- R132: bytes without FLAG are passed over. -/
theorem findHeader_noise {va ec noise : List Byte} (hn : FLAG ∉ noise) (f : List Byte) {r : Receiver}
    (hr : r.fsm = .awaitFlag) : findHeader va ec (noise ++ f) r = findHeader va ec f r := by
  induction noise with
  | nil => rfl
  | cons x noise ih =>
    obtain ⟨hx, hrest⟩ : FLAG ≠ x ∧ FLAG ∉ noise := by simpa using hn
    simp only [List.cons_append, findHeader, fsmNext_awaitFlag_of_ne hr hx.symm, hr, ih hrest, reduceCtorEq, if_false]

/-- R132, R133: of several FLAGs the last one opens the frame. -/
theorem findHeader_flags {va ec : List Byte} (hva : FLAG ∉ va) (f : List Byte) (k : Nat) {r : Receiver}
    (hr : r.fsm = .awaitFlag ∨ r.fsm = .awaitAddress) :
    findHeader va ec (List.replicate k FLAG ++ FLAG :: f) r = findHeader va ec f { r with fsm := .awaitAddress } := by
  induction k generalizing r with
  | zero => simp [findHeader, fsmNext_flag hva hr]
  | succ k ih =>
    rw [List.replicate_succ, List.cons_append, findHeader]
    simp [fsmNext_flag hva hr, ih]

/-- R134, R135: behind an opening FLAG the header of an information frame brings the FSM to Done. -/
theorem findHeader_header {va ec rest : List Byte} {a c : Byte} {r : Receiver} (hr : r.fsm = .awaitAddress)
    (ha : a ∈ va) (hc : c ∈ ec) (hi : isInfo c = true) :
    findHeader va ec (a :: c :: bcc1 a c :: rest) r = some ({ fsm := .done, addr := a, ctrl := c }, rest) := by
  simp [findHeader, fsmNext_address hr ha, fsmNext_control, hc, fsmNext_bcc1_of_info hi]

/-- R118, R119, R121: the body of an information frame, up to its closing FLAG, is accepted and gives the payload. -/
theorem runBody_infoBody {n : Nat} {p : List Byte} (hp : p.length ≤ n) (after : List Byte) :
    runBody n (stuffSeq (p ++ [bcc2 p]) ++ FLAG :: after) Body.entry [] =
      some ({ escp := false, bccacc := 0, rxcnt := p.length + 1, rxovf := false }, p ++ [bcc2 p]) := by
  rw [runBody_stuffSeq n _ after Body.entry [] rfl (by simp [Body.entry]; omega)]
  simp [Body.entry, xorFold_append, xorFold, bcc2]

theorem decInfo_eq_info {n : Nat} {f after p : List Byte} {a : Byte} {b : Bool} (hp : p.length ≤ n)
    (hhead : findHeader validAddresses [infoCode false, infoCode true] f { fsm := .awaitFlag, addr := 0, ctrl := 0 } =
      some ({ fsm := .done, addr := a, ctrl := infoCode b }, stuffSeq (p ++ [bcc2 p]) ++ FLAG :: after)) :
    decInfo n f = .info a b p := by
  simp only [decInfo, hhead, runBody_infoBody hp]
  simp [Body.ok]

/-- Settles O12: noise, the extra FLAGs, the header and the body, one after the other. -/
theorem decodeAmongNoise : Obligations.DecodeAmongNoise := by
  unfold Obligations.DecodeAmongNoise
  intro n k noise after a b p hn ha hp
  have hc : infoCode b ∈ [infoCode false, infoCode true] := by cases b <;> simp
  refine decInfo_eq_info hp (after := after) ?_
  rw [List.append_assoc, List.append_assoc, encInfo_append, findHeader_noise hn _ rfl,
    findHeader_flags flag_not_mem_validAddresses _ k (.inl rfl)]
  exact findHeader_header rfl ha hc (isInfo_infoCode b)

end Sys2Proof.Machine
end

section
/-! PROOFS. Family 30_encoding, whole frames received (O37, O38) and refused commands (O17). -/

namespace Sys2Proof.Machine

open Sys2Proof.Config

/-! ## The bytes an operation takes, one after the other (R61, R130, R136, R208) -/

/-- R61, R208, R228: k bytes have been taken, and rest is what the Transport still holds. -/
def State.took (k : Nat) (rest : List Byte) (s : State) : State :=
  { s with
    done := false, statsValid := false, rx := rest
    stat := { s.stat with bytesRecv := (s.stat.bytesRecv + k) % 2 ^ s.build.cntW } }

theorem State.took_took (s : State) (j k : Nat) (rest rest' : List Byte) :
    (s.took j rest).took k rest' = s.took (j + k) rest' := by
  simp only [State.took, Nat.mod_add_mod, Nat.add_assoc]

/-- The same, where the bytes taken have brought the receiver to r (R130). -/
def State.tookTo (k : Nat) (r : Receiver) (rest : List Byte) (s : State) : State := { s.took k rest with rcv := r }

theorem State.tookTo_tookTo (s : State) (j k : Nat) (q r : Receiver) (rest rest' : List Byte) :
    (s.tookTo j q rest).tookTo k r rest' = s.tookTo (j + k) r rest' := by
  simp only [State.tookTo, State.took, Nat.mod_add_mod, Nat.add_assoc]

/-- R61: while an operation is in progress, the next byte the Transport holds is taken. -/
theorem takeBytes_cons {s : State} {x : Byte} {rest : List Byte} (hop : s.op ≠ .idle) (hrx : s.rx = x :: rest)
    (n : Nat) :
    State.takeBytes (n + 1) s = State.takeBytes n (State.rxByte x (State.dropPulses { s with rx := rest })) := by
  rw [State.takeBytes, if_neg hop, hrx]

/-- R28: the positions in which a byte goes to the FSM. -/
theorem rxByte_of_runsFsm {s : State} (hop : s.op.runsFsm = true) (x : Byte) :
    s.rxByte x = s.countReceived.fsmByte x := by
  have hidle : s.op ≠ .idle := fun h => by simp [h, Op.runsFsm] at hop
  have hbody : s.op ≠ .readBody := fun h => by simp [h, Op.runsFsm] at hop
  rw [State.rxByte, if_neg hidle, if_neg hbody]

section
variable {s : State} {x : Byte} {rest : List Byte} {q r : Receiver} (hop : s.op.runsFsm = true) (n : Nat)
include hop

theorem takeBytes_cons_of_runsFsm (hrx : s.rx = x :: rest) : State.takeBytes (n + 1) s =
    State.takeBytes n (State.fsmByte x (State.dropPulses { s with rx := rest }).countReceived) := by
  rw [takeBytes_cons (fun h => by simp [h, Op.runsFsm] at hop) hrx,
    rxByte_of_runsFsm (s := State.dropPulses { s with rx := rest }) hop]

/-- R130, R137: a byte that does not bring the FSM to Done moves the FSM and does nothing else. -/
theorem takeBytes_of_not_done (hrx : s.rx = x :: rest) (hnext : fsmNext validAddresses s.expected x s.rcv = r)
    (hr : r.fsm ≠ .done) : State.takeBytes (n + 1) s = State.takeBytes n (s.tookTo 1 r rest) := by
  subst hnext
  rw [takeBytes_cons_of_runsFsm hop n hrx]
  exact congrArg (State.takeBytes n) (if_neg fun h => hr h.2)

/-- R136: the operation acts in the step of the byte that brings the FSM to Done. -/
theorem takeBytes_of_done (hrx : s.rx = x :: rest) (hs : s.rcv.fsm ≠ .done)
    (hnext : fsmNext validAddresses s.expected x s.rcv = r) (hr : r.fsm = .done) :
    State.takeBytes (n + 1) s = State.takeBytes n (s.tookTo 1 r rest).actOnCtrl := by
  subst hnext
  rw [takeBytes_cons_of_runsFsm hop n hrx]
  exact congrArg (State.takeBytes n) (if_pos ⟨hs, hr⟩)

/-! The same for a byte behind others that were taken. -/

theorem takeBytes_tookTo_of_not_done (k : Nat) (hnext : fsmNext validAddresses s.expected x q = r)
    (hr : r.fsm ≠ .done) :
    State.takeBytes (n + 1) (s.tookTo k q (x :: rest)) = State.takeBytes n (s.tookTo (k + 1) r rest) := by
  rw [takeBytes_of_not_done (s := s.tookTo k q (x :: rest)) hop n rfl hnext hr, State.tookTo_tookTo]

theorem takeBytes_tookTo_of_done (k : Nat) (hq : q.fsm ≠ .done) (hnext : fsmNext validAddresses s.expected x q = r)
    (hr : r.fsm = .done) :
    State.takeBytes (n + 1) (s.tookTo k q (x :: rest)) = State.takeBytes n (s.tookTo (k + 1) r rest).actOnCtrl := by
  rw [takeBytes_of_done (s := s.tookTo k q (x :: rest)) hop n rfl hq hnext hr, State.tookTo_tookTo]

/-! ## The header of a frame whose control code is expected (R81, R82, R131 to R135) -/

variable {a c : Byte} (hr : s.rcv.fsm = .awaitFlag ∨ s.rcv.fsm = .awaitAddress) (ha : a ∈ validAddresses)
  (hc : c ∈ s.expected)
include hr ha hc

theorem takeBytes_header (hrx : s.rx = FLAG :: a :: c :: rest) : State.takeBytes (n + 3) s =
    State.takeBytes n (s.tookTo 3 { fsm := .awaitBcc1, addr := a, ctrl := c } rest) :=
  calc State.takeBytes (n + 3) s
    _ = State.takeBytes (n + 2) (s.tookTo 1 { s.rcv with fsm := .awaitAddress } (a :: c :: rest)) :=
      takeBytes_of_not_done hop _ hrx (fsmNext_flag flag_not_mem_validAddresses hr) nofun
    _ = State.takeBytes (n + 1) (s.tookTo 2 { fsm := .awaitControl, addr := a, ctrl := s.rcv.ctrl } (c :: rest)) :=
      takeBytes_tookTo_of_not_done hop _ 1 (fsmNext_address rfl ha) nofun
    _ = _ := takeBytes_tookTo_of_not_done hop _ 2 (fsmNext_control rfl hc) nofun

/-- R81, R134, R135: a control frame is accepted at its closing FLAG. -/
theorem takeBytes_encCtrl (hi : isInfo c = false) (hrx : s.rx = encCtrl a c) : State.takeBytes 5 s =
    (s.tookTo 5 { fsm := .done, addr := a, ctrl := c } []).actOnCtrl :=
  calc State.takeBytes 5 s
    _ = State.takeBytes 2 (s.tookTo 3 { fsm := .awaitBcc1, addr := a, ctrl := c } [bcc1 a c, FLAG]) :=
      takeBytes_header hop 2 hr ha hc hrx
    _ = State.takeBytes 1 (s.tookTo 4 { fsm := .awaitTrailingFlag, addr := a, ctrl := c } [FLAG]) :=
      takeBytes_tookTo_of_not_done hop 1 3 (fsmNext_bcc1_of_ctrl hi) nofun
    _ = _ := takeBytes_tookTo_of_done hop 0 4 nofun (fsmNext_trailingFlag rfl) rfl

/-- R82, R134: an information header is accepted at its BCC1. -/
theorem takeBytes_infoHeader (hi : isInfo c = true) (hrx : s.rx = FLAG :: a :: c :: bcc1 a c :: rest) :
    State.takeBytes (n + 4) s = State.takeBytes n (s.tookTo 4 { fsm := .done, addr := a, ctrl := c } rest).actOnCtrl :=
  calc State.takeBytes (n + 4) s
    _ = State.takeBytes (n + 1) (s.tookTo 3 { fsm := .awaitBcc1, addr := a, ctrl := c } (bcc1 a c :: rest)) :=
      takeBytes_header hop _ hr ha hc hrx
    _ = _ := takeBytes_tookTo_of_done hop n 3 nofun (fsmNext_bcc1_of_info hi) rfl

end

/-- R61: where the Transport holds no byte, the operation takes the bytes that reach it. -/
theorem receive_of_rx_nil {s : State} (hrx : s.rx = []) (bs : List Byte) :
    s.receive bs = State.takeBytes bs.length { s with rx := bs } := by
  simp [State.receive, hrx]

/-- Settles O37: the frame's five bytes bring the FSM to Done, and there the operation acts on CTRL as exec of the
instruction of that code does. -/
theorem controlFrameRuns : Obligations.ControlFrameRuns := by
  unfold Obligations.ControlFrameRuns
  intro s a c i hop hrx hr ha hc hi hdec
  have hframe : exec (.ctrlFrame a c) s = .next (s.tookTo 5 { fsm := .done, addr := a, ctrl := c } []).actOnCtrl := by
    rw [exec, execCtrlFrame, receive_of_rx_nil hrx]
    exact congrArg _ (takeBytes_encCtrl (s := { s with rx := encCtrl a c }) hop hr ha hc hi rfl)
  refine ⟨_, ?_, hframe⟩
  have hact := exec_decodeControl (s.tookTo 5 { fsm := .done, addr := a, ctrl := c } [])
  rw [show decodeControl (s.tookTo 5 { fsm := .done, addr := a, ctrl := c } []).rcv.ctrl = .ok i from hdec] at hact
  rw [← hact, State.tookTo, State.took, hrx]

/-! ## The body of an information frame (R118, R119, R181) -/

/-- R118: the state after the data bytes ds, all of which found room in RXBUF. -/
def State.storeBytes (ds : List Byte) (s : State) : State :=
  { s with
    body := { s.body with bccacc := s.body.bccacc ^^^ xorFold ds, rxcnt := s.body.rxcnt + ds.length }
    rxbuf := s.rxbuf.writeList s.body.rxcnt ds }

theorem State.storeBytes_cons (d : Byte) (ds : List Byte) (s : State) :
    (s.storeBytes [d]).storeBytes ds = s.storeBytes (d :: ds) := by
  simp [State.storeBytes, Memory.writeList, xorFold, BitVec.xor_assoc, Nat.add_assoc, Nat.add_comm]

/-- R114, R118: the stuffing of a byte is one data byte, the byte itself. -/
theorem foldl_bodyStep_stuff (d : Byte) {s : State} (he : s.body.escp = false)
    (hroom : s.body.rxcnt ≤ s.build.maxPayload) : (stuff d).foldl (fun u x => u.bodyStep x) s = s.storeBytes [d] := by
  by_cases hd : needsEscape d = true
  · have hesc : s.bodyStep ESC = { s with body := { s.body with escp := true } } := by
      rw [bodyStep_of_none (by simp [Body.dataByte, he])]
      simp [Body.step, he, show ESC ≠ FLAG by decide]
    have hdata : (s.bodyStep ESC).body.dataByte (d ^^^ ESC_XOR) = some d :=
      Body.dataByte_eq_some (escaped_ne_flag hd) (.inl ⟨by rw [hesc], (xor_escXor_twice d).symm⟩)
    rw [stuff_of_needsEscape hd, List.foldl_cons, List.foldl_cons, List.foldl_nil,
      bodyStep_of_room hdata (by rw [hesc]; exact hroom), hesc]
    simp [State.storeBytes, Memory.writeList, xorFold, he]
  · obtain ⟨hf, hne⟩ : d ≠ FLAG ∧ d ≠ ESC := by simpa [needsEscape] using hd
    have hdata : s.body.dataByte d = some d := Body.dataByte_eq_some hf (.inr ⟨he, hne, rfl⟩)
    rw [stuff_of_ne hf hne, List.foldl_cons, List.foldl_nil, bodyStep_of_room hdata hroom]
    simp [State.storeBytes, Memory.writeList, xorFold, he]

/-- R118: a stuffed sequence that fits in RXBUF is stored there, byte by byte. -/
theorem foldl_bodyStep_stuffSeq (ds : List Byte) : ∀ {s : State}, s.body.escp = false →
    s.body.rxcnt + ds.length ≤ s.build.maxPayload + 1 →
    (stuffSeq ds).foldl (fun u x => u.bodyStep x) s = s.storeBytes ds := by
  induction ds with
  | nil => intro s _ _; simp [stuffSeq, State.storeBytes, Memory.writeList, xorFold]
  | cons d ds ih =>
    intro s he hfit
    rw [List.length_cons] at hfit
    rw [stuffSeq, List.foldl_append, foldl_bodyStep_stuff d he (by omega), ih (by exact he)
      (by show s.body.rxcnt + 1 + ds.length ≤ s.build.maxPayload + 1; omega), State.storeBytes_cons]

/-- R118: DEC_BODY looks at neither the RX stream, nor the count of the bytes, nor the pulses. -/
theorem foldl_bodyStep_took (bs : List Byte) (s : State) (k : Nat) (rest : List Byte) :
    bs.foldl (fun u x => u.bodyStep x) (s.took k rest) = (bs.foldl (fun u x => u.bodyStep x) s).took k rest :=
  List.foldl_hom (State.took k rest) fun _ _ => rfl

/-- R118: in ReadBody a byte the engine takes goes to the body decoder. -/
theorem takeBytes_cons_of_readBody {s : State} {x : Byte} {rest : List Byte} (hop : s.op = .readBody)
    (hrx : s.rx = x :: rest) (n : Nat) :
    State.takeBytes (n + 1) s = State.takeBytes n ((s.took 1 rest).bodyByte x) := by
  rw [takeBytes_cons (by simp [hop]) hrx]
  refine congrArg (State.takeBytes n) ?_
  rw [State.rxByte, if_neg (by simp [hop]), if_pos (by exact hop)]
  rfl

/-- R118, R181, R182: in ReadBody the engine takes the bytes of a body and, at its closing FLAG, acts on bodyOk. -/
theorem takeBytes_body (bs rest : List Byte) (n : Nat) : ∀ {s : State}, s.op = .readBody → FLAG ∉ bs →
    s.rx = bs ++ FLAG :: rest → State.takeBytes (n + (bs.length + 1)) s =
      State.takeBytes n (((bs.foldl (fun u x => u.bodyStep x) s).took (bs.length + 1) rest).bodyByte FLAG) := by
  induction bs with
  | nil => intro s hop _ hrx; exact takeBytes_cons_of_readBody hop hrx n
  | cons x bs ih =>
    intro s hop hbs hrx
    obtain ⟨hx, hrest⟩ : FLAG ≠ x ∧ FLAG ∉ bs := by simpa using hbs
    have hstep : (s.took 1 (bs ++ FLAG :: rest)).bodyByte x = (s.bodyStep x).took 1 (bs ++ FLAG :: rest) := by
      rw [State.bodyByte, if_neg hx.symm, decBody_of_ne_flag _ hx.symm]
      rfl
    rw [List.cons_append] at hrx
    rw [List.length_cons, ← Nat.add_assoc, takeBytes_cons_of_readBody hop hrx, hstep,
      ih (s := (s.bodyStep x).took 1 (bs ++ FLAG :: rest)) hop hrest rfl, foldl_bodyStep_took, State.took_took,
      Nat.add_comm 1, List.foldl_cons]

/-- R119, R181: READ ends with Ok in the step of a closing FLAG behind an accepted body. -/
theorem bodyByte_flag_of_ok {s : State} (hok : s.body.ok = true) :
    s.bodyByte FLAG = State.readAccepted { s with codecOut := .verdict true } := by
  rw [State.bodyByte, if_pos rfl, decBody_flag, State.bodyClosed, if_pos hok, hok]

/-- R118, R119: the state in which READ acts on the body of an information frame that it accepts: k bytes were taken
since the header, and the check value is 0. -/
def State.bodyAccepted (k : Nat) (p : List Byte) (s : State) : State :=
  { s.took k [] with
    op := .readBody
    body := { escp := false, bccacc := 0x00, rxcnt := p.length + 1, rxovf := false }
    rxbuf := s.rxbuf.writeList 0 (p ++ [bcc2 p])
    codecOut := .verdict true }

theorem storeBytes_enterBody (k : Nat) (p : List Byte) (s : State) :
    { (s.enterBody.storeBytes (p ++ [bcc2 p])).took k [] with codecOut := .verdict true } = s.bodyAccepted k p := by
  simp [State.storeBytes, State.enterBody, Body.entry, State.took, State.bodyAccepted, xorFold_append, xorFold, bcc2]

theorem takeBytes_infoBody {s : State} {p : List Byte} (hp : p.length ≤ s.build.maxPayload)
    (hrx : s.rx = stuffSeq (p ++ [bcc2 p]) ++ [FLAG]) :
    State.takeBytes ((stuffSeq (p ++ [bcc2 p])).length + 1) s.enterBody =
      (s.bodyAccepted ((stuffSeq (p ++ [bcc2 p])).length + 1) p).readAccepted := by
  have htake := takeBytes_body (stuffSeq (p ++ [bcc2 p])) [] 0 (s := s.enterBody) rfl (flag_not_mem_stuffSeq _) hrx
  have hstore := foldl_bodyStep_stuffSeq (p ++ [bcc2 p]) (s := s.enterBody) rfl
    (by simp [State.enterBody, Body.entry]; omega)
  rw [Nat.zero_add, State.takeBytes, hstore] at htake
  rw [htake, ← storeBytes_enterBody]
  refine bodyByte_flag_of_ok ?_
  simp [State.took, State.storeBytes, State.enterBody, Body.entry, Body.ok, xorFold_append, xorFold, bcc2]

/-- R65, R181: what RXBUF then holds. -/
theorem read_writeList_payload (m : Memory) (p : List Byte) (i : Nat) :
    (m.writeList 0 (p ++ [bcc2 p])).read i =
      if i < p.length then p[i]? else if i = p.length then some (xorFold p) else m.read i := by
  rw [Memory.read_writeList]
  rcases lt_trichotomy i p.length with hlt | rfl | hgt
  · rw [if_pos (by simp; omega), if_pos hlt, Nat.sub_zero, List.getElem?_append_left hlt]
  · simp [bcc2]
  · rw [if_neg (by simp; omega), if_neg (by omega), if_neg (by omega)]

/-- R180: on the header of the expected bit READ enters the body. -/
theorem actOnCtrl_of_readHeader {s : State} (hop : s.op = .readHeader) (hfsm : s.rcv.fsm = .done)
    (hctrl : s.rcv.ctrl = infoCode s.rxbit) : s.actOnCtrl = s.enterBody := by
  rw [actOnCtrl_info _ hctrl, State.onInfo]
  exact acceptCode_of_expected hfsm hctrl (by simp [State.expected, hop, expectedControls])

/-- R82, R177, R180, R181: the header brings READ into the body, and the body to its acceptance. -/
theorem receive_encInfo {s : State} {a : Byte} {p : List Byte} (hop : s.op = .readHeader) (hrx : s.rx = [])
    (hr : s.rcv.fsm = .awaitFlag ∨ s.rcv.fsm = .awaitAddress) (ha : a ∈ validAddresses)
    (hp : p.length ≤ s.build.maxPayload) :
    s.receive (encInfo a s.rxbit p) =
      (State.bodyAccepted ((stuffSeq (p ++ [bcc2 p])).length + 1) p (s.tookTo 4
        { fsm := .done, addr := a, ctrl := infoCode s.rxbit } (stuffSeq (p ++ [bcc2 p]) ++ [FLAG]))).readAccepted := by
  have hframe : encInfo a s.rxbit p = FLAG :: a :: infoCode s.rxbit :: bcc1 a (infoCode s.rxbit) ::
      (stuffSeq (p ++ [bcc2 p]) ++ [FLAG]) := by
    simpa [bcc1] using encInfo_append a s.rxbit p []
  have hexpected : infoCode s.rxbit ∈ s.expected := by simp [State.expected, hop, expectedControls]
  have hheader := takeBytes_infoHeader (s := { s with rx := encInfo a s.rxbit p }) (by rw [hop]; rfl)
    ((stuffSeq (p ++ [bcc2 p])).length + 1) hr ha hexpected (isInfo_infoCode _) hframe
  rw [receive_of_rx_nil hrx, length_encInfo_body, hheader, actOnCtrl_of_readHeader (by exact hop) rfl rfl]
  exact takeBytes_infoBody hp rfl

/-- Settles O38: RXBUF holds what the body wrote from index 0, and the rest of the state is READ's end. -/
theorem informationFrameDelivered : Obligations.InformationFrameDelivered := by
  unfold Obligations.InformationFrameDelivered
  intro s a p hop hrx hr ha hp
  refine ⟨_, congrArg Host.Outcome.next (receive_encInfo hop hrx hr ha hp), read_writeList_payload s.rxbuf p, ?_⟩
  have hcount (n : Nat) : n + 4 + ((stuffSeq (p ++ [bcc2 p])).length + 1) = n + (encInfo a s.rxbit p).length := by
    rw [length_encInfo_body]; omega
  simp [State.readAccepted, State.bodyAccepted, State.tookTo, State.took, State.txFrame, State.countFrameReceived,
    State.finish, State.bumped, encCtrl, hrx, hcount]

/-! ## Refused commands (R101, R151, R156, R171, R178, R229) -/

theorem openRefused_iff (s : State) :
    s.openRefused = true ↔ s.openf = true ∨ s.cfgTries = 0 ∨ s.cfgTimeout = 0 := by
  simp [State.openRefused, or_assoc]

theorem writeRefused_iff (s : State) : s.writeRefused = true ↔ s.openf = false ∨ s.build.maxPayload < s.txlen := by
  simp [State.writeRefused]

/-- R229: in the acceptance of each command, an idle engine under the refusing condition finishes at once. -/
theorem finish_refused_of_idle {s : State} {refuses : Bool} (start : State) (hop : s.op = .idle)
    (hrefuses : refuses = true) :
    (if s.busy then .next s else if refuses then .next (s.finish .refused) else .next start :
      Host.Outcome State Fault Refusal) = .next (s.finish .refused) := by
  have hbusy : s.busy = false := by simp [State.busy, hop]
  rw [hbusy, hrefuses]
  rfl

/-- R101: an idle engine refuses a reserved code without a further condition. -/
theorem reservedCommand_of_idle {s : State} (hop : s.op = .idle) : s.reservedCommand = s.finish .refused := by
  simp [State.reservedCommand, State.busy, hop]

/-- Settles O17, code by code. -/
theorem refusedCommands : Obligations.RefusedCommands := by
  unfold Obligations.RefusedCommands
  intro s i hop h
  rcases h with rfl | rfl | rfl | rfl | ⟨rfl, h⟩ | ⟨rfl, h⟩ | ⟨rfl, h⟩ | ⟨⟨collect, rfl⟩, h⟩
  iterate 4 exact congrArg Host.Outcome.next (reservedCommand_of_idle hop)
  · exact finish_refused_of_idle s.openStart hop ((openRefused_iff s).mpr h)
  · exact finish_refused_of_idle s.writeStart hop ((writeRefused_iff s).mpr h)
  · exact finish_refused_of_idle s.readStart hop (by simp [State.readRefused, h])
  · exact finish_refused_of_idle (s.closeStart collect) hop (by simp [State.closeRefused, h])

end Sys2Proof.Machine
end

section
/-! PROOFS. Family 40_codec, the codec's functions: exclusive or (O7), stuffing (O9), the round trip (O11), and the seven codec rows with what DEC_INFO answers (O8). -/

namespace Sys2Proof.Machine

open Sys2Proof.Config

/-! ## The round trip (R116, R120, R121) -/

/-- R121: a frame with nothing before and nothing behind it is a frame among other bytes. -/
theorem decInfo_encInfo {n : Nat} {a : Byte} {p : List Byte} (ha : a ∈ validAddresses) (b : Bool)
    (hp : p.length ≤ n) : decInfo n (encInfo a b p) = .info a b p := by
  simpa using decodeAmongNoise n 0 [] [] a b p List.not_mem_nil ha hp

/-- Settles O11: exec of DEC_INFO hands over what decInfo gives at the build's MAX_PAYLOAD. -/
theorem roundTrip : Obligations.RoundTrip := by
  unfold Obligations.RoundTrip
  intro s a b p ha hp
  rw [exec, execDecInfo, decInfo_encInfo ha b hp]
  rfl

/-! ## Exclusive or of bytes (R11, R110) -/

theorem xorFold_eq_of_perm {s t : List Byte} (h : s.Perm t) : xorFold s = xorFold t := by
  induction h with
  | nil => rfl
  | cons x _ ih => rw [xorFold, xorFold, ih]
  | swap x y l => simp only [xorFold]; rw [← BitVec.xor_assoc, BitVec.xor_comm y x, BitVec.xor_assoc]
  | trans _ _ ih ih' => exact ih.trans ih'

theorem xorFold_concat_eq_zero_iff (s : List Byte) (x : Byte) : xorFold (s ++ [x]) = 0x00 ↔ x = xorFold s := by
  have hlast : xorFold [x] = x := BitVec.xor_zero
  rw [xorFold_append, hlast]
  exact BitVec.xor_eq_zero_iff.trans eq_comm

/-- Settles O7: the laws of one byte are the bit vectors' own; those of xor_fold follow along the sequence. -/
theorem exclusiveOrLaws : Obligations.ExclusiveOrLaws := by
  unfold Obligations.ExclusiveOrLaws
  exact ⟨fun a b c => ⟨BitVec.xor_comm a b, BitVec.xor_assoc a b c, BitVec.xor_zero, BitVec.xor_self⟩, rfl,
    fun _ _ => xorFold_eq_of_perm, xorFold_concat_eq_zero_iff⟩

/-- R110: xor_fold from the left. -/
theorem foldl_xor_eq (p : List Byte) (a : Byte) : p.foldl (· ^^^ ·) a = a ^^^ xorFold p := by
  induction p generalizing a with
  | nil => exact BitVec.xor_zero.symm
  | cons b p ih => rw [List.foldl_cons, ih, xorFold, BitVec.xor_assoc]

theorem foldl_xor_zero (p : List Byte) : p.foldl (· ^^^ ·) 0x00 = xorFold p :=
  (foldl_xor_eq p 0x00).trans BitVec.zero_xor

/-! ## Stuffing (R85, R113) -/

/-- R113 in one formula. -/
theorem stuff_eq_ite (b : Byte) : stuff b = if b = FLAG ∨ b = ESC then [ESC, b ^^^ ESC_XOR] else [b] := by
  simp [stuff, needsEscape]

theorem stuffSeq_eq_flatten (s : List Byte) : stuffSeq s = (s.map stuff).flatten := by
  induction s with
  | nil => rfl
  | cons b s ih => rw [stuffSeq, ih, List.map_cons, List.flatten_cons]

theorem escCount_eq_countP (s : List Byte) : escCount s = s.countP needsEscape := by
  induction s with
  | nil => rfl
  | cons b s ih => rw [escCount, ih, List.countP_cons, Nat.add_comm]

/-- R113: in an output of STUFF, ESC is only the first of two bytes. -/
theorem getElem?_stuff_eq_esc {d : Byte} {i : Nat} (h : (stuff d)[i]? = some ESC) : i = 0 ∧ (stuff d).length = 2 := by
  have hpair {x : Byte} (hx : x ≠ ESC) (hi : [ESC, x][i]? = some ESC) : i = 0 := by
    match i with
    | 0 => rfl
    | 1 => exact absurd (by simpa using hi) hx
    | i + 2 => simp at hi
  rcases stuff_cases d with hd | hd | ⟨-, he, hd⟩ <;> rw [hd] at h ⊢
  · exact ⟨hpair (by decide) h, rfl⟩
  · exact ⟨hpair (by decide) h, rfl⟩
  · exact absurd (List.mem_of_getElem? h) (by simpa using he.symm)

/-- Settles O9: STUFF byte by byte, and along a sequence. -/
theorem stuffingLaws : Obligations.StuffingLaws := by
  unfold Obligations.StuffingLaws
  exact ⟨rfl, rfl, fun _ => stuff_of_ne, fun b => ⟨flag_not_mem_stuff b, fun _ => getElem?_stuff_eq_esc⟩,
    fun s => ⟨stuffSeq_eq_flatten s, escCount_eq_countP s, length_stuffSeq s⟩⟩

/-! ## When DEC_INFO answers what (R119, R120) -/

/-- R120: the receiver after the bytes bs, run from AwaitFlag with EC = {I(0), I(1)}. -/
def headerRun (bs : List Byte) : Receiver :=
  bs.foldl (fun r y => fsmNext validAddresses [infoCode false, infoCode true] y r)
    { fsm := .awaitFlag, addr := 0x00, ctrl := 0x00 }

/-- R117, R118: the state after the body decoder's entry and the bytes of body. -/
def State.bodyRun (body : List Byte) (s : State) : State := body.foldl (fun u x => u.bodyStep x) s.enterBody

theorem decInfo_of_no_header {n : Nat} {f : List Byte}
    (h : ∀ k, k ≤ f.length → (headerRun (f.take k)).fsm ≠ .done) : decInfo n f = .incomplete := by
  simp only [decInfo, findHeader_eq_none _ _ f _ h]

section

variable {head : List Byte} (hdone : (headerRun head).fsm = .done)
  (hfirst : ∀ k, k < head.length → (headerRun (head.take k)).fsm ≠ .done)
include hdone hfirst

/-- R120: the FSM part of DEC_INFO stops behind the byte that first brings the FSM to Done. -/
theorem findHeader_of_first (rest : List Byte) :
    findHeader validAddresses [infoCode false, infoCode true] (head ++ rest)
      { fsm := .awaitFlag, addr := 0, ctrl := 0 } = some (headerRun head, rest) :=
  findHeader_append _ _ head rest _ (fun hnil => by simp [hnil, headerRun] at hdone) hdone hfirst

theorem decInfo_of_no_closing_flag {rest : List Byte} (hrest : FLAG ∉ rest) (n : Nat) :
    decInfo n (head ++ rest) = .incomplete := by
  simp only [decInfo, findHeader_of_first hdone hfirst, runBody_eq_none n rest _ _ hrest]

/-- R119, R120: at the closing FLAG bodyOk decides; the payload is what the body decoder stored, without BCC2. -/
theorem decInfo_of_closed_body (s : State) {body : List Byte} (hbody : FLAG ∉ body) (after : List Byte) :
    ∃ stored : List Byte, stored.length = (s.bodyRun body).body.rxcnt ∧
      (∀ i, i < stored.length → (s.bodyRun body).rxbuf.read i = stored[i]?) ∧
      decInfo s.build.maxPayload (head ++ (body ++ [FLAG] ++ after)) =
        if (s.bodyRun body).body.ok then
          .info (headerRun head).addr (seqOfInfo (headerRun head).ctrl) (stored.take ((s.bodyRun body).body.rxcnt - 1))
        else .checksumMismatch := by
  obtain ⟨stored, hrun, hlen, hread⟩ := runBody_bodyStep body after s.enterBody [] hbody rfl (Nat.zero_le _) nofun
  have hrun' : runBody s.build.maxPayload (body ++ FLAG :: after) Body.entry [] = some ((s.bodyRun body).body, stored) :=
    hrun
  refine ⟨stored, hlen, hread, ?_⟩
  rw [List.append_assoc, List.singleton_append]
  simp only [decInfo, findHeader_of_first hdone hfirst, hrun']

theorem decInfo_of_accepted_body {s : State} {body : List Byte} (hbody : FLAG ∉ body) (after : List Byte)
    (hok : (s.bodyRun body).body.ok = true) :
    ∃ p : List Byte, p.length = (s.bodyRun body).body.rxcnt - 1 ∧
      (∀ i, i < p.length → p[i]? = (s.bodyRun body).rxbuf.read i) ∧
      decInfo s.build.maxPayload (head ++ (body ++ [FLAG] ++ after)) =
        .info (headerRun head).addr (seqOfInfo (headerRun head).ctrl) p := by
  obtain ⟨stored, hlen, hread, hinfo⟩ := decInfo_of_closed_body hdone hfirst s hbody after
  refine ⟨stored.take ((s.bodyRun body).body.rxcnt - 1), List.length_take_of_le (by omega), fun i hi => ?_, ?_⟩
  · rw [List.length_take] at hi
    rw [List.getElem?_take_of_lt (by omega), hread i (by omega)]
  · rw [hinfo, if_pos hok]

theorem decInfo_of_rejected_body {s : State} {body : List Byte} (hbody : FLAG ∉ body) (after : List Byte)
    (hbad : (s.bodyRun body).body.ok = false) :
    decInfo s.build.maxPayload (head ++ (body ++ [FLAG] ++ after)) = .checksumMismatch := by
  obtain ⟨stored, -, -, hinfo⟩ := decInfo_of_closed_body hdone hfirst s hbody after
  rw [hinfo, hbad, if_neg Bool.false_ne_true]

end

/-- Settles O8: six rows by their formulas, DEC_INFO by whether its bytes hold a header, a closing FLAG and an
accepted body. -/
theorem codecFunctions : Obligations.CodecFunctions := by
  unfold Obligations.CodecFunctions
  intro s
  refine ⟨fun _ _ => rfl, fun p => ?_, fun b => ?_, fun _ => rfl, fun _ _ => rfl, fun a b p => ?_, fun _ => rfl,
    fun f => ?_⟩
  · rw [foldl_xor_zero]; rfl
  · exact congrArg (fun bs => Host.Outcome.next (s.handOver (.bytes bs))) (stuff_eq_ite b)
  · simp only [foldl_xor_zero, ← stuffSeq_eq_flatten]
    exact congrArg (fun n => Host.Outcome.next (s.handOver (.frame (encInfo a b p) n))) (escCount_eq_countP _)
  · have hanswer {o : CodecOut} (h : decInfo s.build.maxPayload f = o) : exec (.decInfo f) s = .next (s.handOver o) :=
      congrArg (fun o => Host.Outcome.next (s.handOver o)) h
    refine ⟨fun hnone => hanswer (decInfo_of_no_header hnone), ?_⟩
    rintro head rest rfl hdone hfirst
    refine ⟨fun hrest => hanswer (decInfo_of_no_closing_flag hdone hfirst hrest _), ?_⟩
    rintro body after rfl hbody
    refine ⟨fun hok => ?_, fun hbad => ?_⟩
    · obtain ⟨p, hlen, hread, hinfo⟩ :=
        decInfo_of_accepted_body hdone hfirst hbody after ((Body.ok_eq_decide _).trans (decide_eq_true hok))
      exact ⟨p, hlen, hread, hanswer hinfo⟩
    · exact hanswer
        (decInfo_of_rejected_body hdone hfirst hbody after ((Body.ok_eq_decide _).trans (decide_eq_false hbad)))

end Sys2Proof.Machine
end

section
/-! PROOFS. Family 40_codec, the codec at work in an operation: the expected codes as instructions (O23), and READ's step on a byte (O28). -/

namespace Sys2Proof.Machine

open Sys2Proof.Config

/-! ## SET, DISC, UA and I(s) where they are expected (R136, R153, R158, R180; log 12) -/

/-- Every spelling of I(b) runs the action on an accepted I(b) (R88, R180). -/
theorem exec_of_info_spelling {i : Instr} {b : Bool} (h : i = .info b ∨ i = .i0 ∧ b = false ∨ i = .i1 ∧ b = true)
    (s : State) : exec i s = .next (s.onInfo b) := by
  rcases h with rfl | ⟨rfl, rfl⟩ | ⟨rfl, rfl⟩ <;> rfl

/-- R136: an expected code stands in CTRL, and the operation acts. -/
theorem acceptCode_of_mem {s : State} {c : Byte} (act : State → State) (hc : c ∈ s.expected) :
    s.acceptCode c act = act { s with rcv := { s.rcv with fsm := .done, ctrl := c } } := if_pos hc

theorem mem_expected_of_openWait {s : State} (hop : s.op = .openWait) : SET ∈ s.expected ∧ UA ∈ s.expected := by
  simp [State.expected, hop, expectedControls]

theorem mem_expected_of_closeWait {s : State} (hop : s.op = .closeWait) : DISC ∈ s.expected ∧ UA ∈ s.expected := by
  simp [State.expected, hop, expectedControls]

theorem expected_of_readHeader {s : State} (hop : s.op = .readHeader) : s.expected = [infoCode s.rxbit] := by
  simp [State.expected, hop, expectedControls]

/-- R158, R210: the end of a CLOSE, with or without the pulse of stats_valid. -/
theorem State.closeDone_eq (s : State) : s.closeDone = { s with
    tarmed := false, openf := false, statsValid := s.statsValid || s.collect
    op := .idle, result := .ok, done := true } := by
  cases hc : s.collect <;> simp [State.closeDone, State.reportStats, State.disarmTimer, State.finish, hc]

/-- Settles O23, code by code. -/
theorem expectedCodesAct : Obligations.ExpectedCodesAct := by
  unfold Obligations.ExpectedCodesAct
  intro s
  refine ⟨fun hop => ?_, fun hop => ?_, fun hop => ?_, fun hop => ?_, ?_⟩
  · exact congrArg Host.Outcome.next (acceptCode_of_mem _ (mem_expected_of_openWait hop).1)
  · exact congrArg Host.Outcome.next
      ((acceptCode_of_mem _ (mem_expected_of_closeWait hop).1).trans (State.closeDone_eq _))
  · rw [exec, execUa, State.onUa, acceptCode_of_mem _ (mem_expected_of_openWait hop).2, if_neg (by simp [hop])]
    rfl
  · rw [exec, execUa, State.onUa, acceptCode_of_mem _ (mem_expected_of_closeWait hop).2, if_pos (by exact hop),
      State.closeDone_eq]
    rfl
  · rintro _ i hop rfl hi
    rw [exec_of_info_spelling hi, State.onInfo, acceptCode_of_mem _ (by simp [expected_of_readHeader hop])]
    rfl

/-! ## READ's step on a byte (R117 to R119, R130, R136, R180 to R182) -/

/-- R28, R118: in ReadBody the step on an offered byte is the body decoder's. -/
theorem step_of_offers_readBody {s : State} {x : Byte} {rest : List Byte} (h : s.Offers x rest)
    (hop : s.op = .readBody) : step s = .next ((s.afterTaking rest).bodyByte x) := by
  rw [step_of_offers h, State.rxByte, if_neg (by exact h.taking), if_pos (by exact hop)]
  rfl

section

variable {s : State} {x : Byte} {rest : List Byte} (h : s.Offers x rest) (hop : s.op.runsFsm = true)
include h hop

/-- R28, R130: where the FSM runs, the step on an offered byte is the FSM's. -/
theorem step_of_offers_runsFsm : step s = .next ((s.afterTaking rest).fsmByte x) := by
  rw [step_of_offers h, rxByte_of_runsFsm (by exact hop)]
  rfl

/-- R130: a byte that does not bring the FSM to Done moves the receiver only. -/
theorem step_of_offers_not_done (hd : (fsmNext validAddresses s.expected x s.rcv).fsm ≠ .done) :
    step s = .next { s.afterTaking rest with rcv := fsmNext validAddresses s.expected x s.rcv } := by
  rw [step_of_offers_runsFsm h hop]
  exact congrArg Host.Outcome.next (if_neg fun hc => hd hc.2)

/-- R136: in the step that brings the FSM to Done the operation acts on CTRL. -/
theorem step_of_offers_done (hr : s.rcv.fsm ≠ .done) (hd : (fsmNext validAddresses s.expected x s.rcv).fsm = .done) :
    step s = .next (State.actOnCtrl { s.afterTaking rest with rcv := fsmNext validAddresses s.expected x s.rcv }) := by
  rw [step_of_offers_runsFsm h hop]
  exact congrArg Host.Outcome.next (if_pos ⟨hr, hd⟩)

end

/-- R142: CTRL is an expected code when a run reaches Done. -/
theorem ctrl_mem_expected_of_done {s : State} {x : Byte} (hs : s.Sequenced) (hop : s.op.runsFsm = true)
    (hd : (fsmNext validAddresses s.expected x s.rcv).fsm = .done) :
    (fsmNext validAddresses s.expected x s.rcv).ctrl ∈ s.expected := by
  obtain ⟨hfrom, hto⟩ := fsmNext_done (hs.running hop) hd
  rw [hto]
  exact hs.ctrlRecorded hop hfrom

/-- R119, R182: behind a body that is not accepted READ sends REJ and looks for a header again. -/
theorem bodyByte_flag_of_not_ok {s : State} (hok : s.body.ok = false) :
    s.bodyByte FLAG = State.readRejected { s with codecOut := .verdict false } := by
  rw [State.bodyByte, if_pos rfl, decBody_flag, State.bodyClosed, if_neg (Bool.eq_false_iff.mp hok), hok]

theorem length_encCtrl (a c : Byte) : (encCtrl a c).length = 5 := rfl

/-- R181: the end of a READ. -/
theorem State.readAccepted_eq (s : State) : s.readAccepted = { s with
    rxbit := !s.rxbit
    tx := s.tx ++ encCtrl (replyAddr s.role) (rrCode s.rxbit)
    stat := { s.stat with
      bytesSent := (s.stat.bytesSent + 5) % 2 ^ s.build.cntW
      framesRecv := (s.stat.framesRecv + 1) % 2 ^ s.build.cntW }
    rxlen := s.body.rxcnt - 1, delivered := true
    tarmed := false, op := .idle, result := .ok, done := true } := by
  simp only [State.readAccepted, State.txFrame, State.countFrameReceived, State.finish, State.bumped, length_encCtrl]

/-- R182: the READ goes on. -/
theorem State.readRejected_eq (s : State) : s.readRejected = { s with
    tx := s.tx ++ encCtrl (replyAddr s.role) (rejCode s.rxbit)
    stat := { s.stat with
      bytesSent := (s.stat.bytesSent + 5) % 2 ^ s.build.cntW
      rejSent := (s.stat.rejSent + 1) % 2 ^ s.build.cntW }
    rcv := { s.rcv with fsm := .awaitFlag }, op := .readHeader } := by
  simp only [State.readRejected, State.txFrame, State.countRejSent, State.startRun, State.bumped, length_encCtrl]

/-- Settles O28: in the header the FSM decides, in the body whether the byte is FLAG and then bodyOk. -/
theorem readByteSteps : Obligations.ReadByteSteps := by
  unfold Obligations.ReadByteSteps
  intro s x rest hs h
  refine ⟨fun hop => ?_, fun hop hx => ?_, fun hop hx hok => ?_, fun hop hx hbad => ?_⟩
  · have hrun : s.op.runsFsm = true := by rw [hop]; rfl
    have hmem := ctrl_mem_expected_of_done (x := x) hs hrun
    have hgo := step_of_offers_not_done h hrun
    have hdone := step_of_offers_done h hrun (hs.running hrun)
    rw [expected_of_readHeader hop] at hmem hgo hdone
    refine ⟨hgo, fun hd => ?_⟩
    have hctrl := List.mem_singleton.mp (hmem hd)
    exact ⟨hctrl, (hdone hd).trans (congrArg Host.Outcome.next (actOnCtrl_of_readHeader hop hd hctrl))⟩
  · rw [step_of_offers_readBody h hop, State.bodyByte, if_neg hx]
    rfl
  · subst hx
    have hbody : (s.afterTaking rest).body.ok = true := (Body.ok_eq_decide _).trans (decide_eq_true hok)
    rw [step_of_offers_readBody h hop, bodyByte_flag_of_ok hbody, State.readAccepted_eq]
    rfl
  · subst hx
    have hbody : (s.afterTaking rest).body.ok = false := (Body.ok_eq_decide _).trans (decide_eq_false hbad)
    rw [step_of_offers_readBody h hop, bodyByte_flag_of_not_ok hbody, State.readRejected_eq]
    rfl

end Sys2Proof.Machine
end

section
/-! PROOFS. Family 41_receiver_fsm: the transition table (O14), a run of the FSM over a sequence of bytes (O15, O16), a dropped duplicate (O39), and the instruction a step runs (O35). -/

namespace Sys2Proof.Machine

open Sys2Proof.Config

/-! ## The transition table, row by row (R140, R141) -/

/-- R132, R133: what a byte that does not fit leaves behind: a FLAG may open a frame, any other byte may not. -/
def Receiver.resync (x : Byte) (r : Receiver) : Receiver :=
  { r with fsm := if x = FLAG then .awaitAddress else .awaitFlag }

theorem Receiver.resync_eq_ite (x : Byte) (r : Receiver) :
    r.resync x = if x = FLAG then { r with fsm := .awaitAddress } else { r with fsm := .awaitFlag } := by
  unfold Receiver.resync
  split <;> rfl

theorem Receiver.resync_flag (r : Receiver) : r.resync FLAG = { r with fsm := .awaitAddress } := rfl

theorem Receiver.resync_of_ne {x : Byte} (hx : x ≠ FLAG) (r : Receiver) :
    r.resync x = { r with fsm := .awaitFlag } := by
  rw [Receiver.resync, if_neg hx]

section
variable {va ec : List Byte} {x : Byte} {r : Receiver}

theorem fsmNext_of_awaitFlag (hr : r.fsm = .awaitFlag) : fsmNext va ec x r = r.resync x := by
  simp only [fsmNext, hr, Receiver.resync_eq_ite]

theorem fsmNext_of_awaitAddress (hr : r.fsm = .awaitAddress) :
    fsmNext va ec x r = if x ∈ va then { r with fsm := .awaitControl, addr := x } else r.resync x := by
  simp only [fsmNext, hr, Receiver.resync_eq_ite]

theorem fsmNext_of_awaitControl (hr : r.fsm = .awaitControl) :
    fsmNext va ec x r = if x ∈ ec then { r with fsm := .awaitBcc1, ctrl := x } else r.resync x := by
  simp only [fsmNext, hr, Receiver.resync_eq_ite]

theorem fsmNext_of_awaitBcc1 (hr : r.fsm = .awaitBcc1) :
    fsmNext va ec x r = if x = bcc1 r.addr r.ctrl then
      { r with fsm := if isInfo r.ctrl then .done else .awaitTrailingFlag } else r.resync x := by
  simp only [fsmNext, hr, Receiver.resync_eq_ite, apply_ite (fun f => ({ r with fsm := f } : Receiver))]

theorem fsmNext_of_awaitTrailingFlag (hr : r.fsm = .awaitTrailingFlag) :
    fsmNext va ec x r = { r with fsm := if x = FLAG then .done else .awaitFlag } := by
  simp only [fsmNext, hr, apply_ite (fun f => ({ r with fsm := f } : Receiver))]

end

theorem isInfo_iff (c : Byte) : isInfo c = true ↔ c = 0x80 ∨ c = 0xC0 := by
  simp [isInfo, infoCode, I0, I1]

/-- R130: FSM_STEP writes the receiver's registers and nothing else. -/
theorem exec_fsmStep_of_fsmNext {s : State} {x : Byte} {va ec : List Byte} {r : Receiver}
    (h : fsmNext va ec x s.rcv = r) : exec (.fsmStep x va ec) s = .next { s with rcv := r } := by
  subst h
  rfl

/-- Settles O14, one row of the table after the other. -/
theorem fsmTransitionTable : Obligations.FsmTransitionTable := by
  unfold Obligations.FsmTransitionTable
  intro s x va ec
  refine ⟨fun h => ?_, fun h => ?_, fun h => ?_, fun h => ?_, fun h => ?_⟩ <;> apply exec_fsmStep_of_fsmNext
  · exact fsmNext_of_awaitFlag h
  · exact fsmNext_of_awaitAddress h
  · exact fsmNext_of_awaitControl h
  · rw [fsmNext_of_awaitBcc1 h]
    simp only [isInfo_iff, Receiver.resync, bcc1]
    split <;> rfl
  · exact fsmNext_of_awaitTrailingFlag h

/-! ## A run of the FSM over a sequence of bytes (R138) -/

/-- R138, R141: the receiver after the bytes bs of one run. -/
def Receiver.run (va ec bs : List Byte) (r : Receiver) : Receiver := bs.foldl (fun r y => fsmNext va ec y r) r

section
variable {va ec : List Byte}

theorem Receiver.run_cons (x : Byte) (bs : List Byte) (r : Receiver) :
    r.run va ec (x :: bs) = (fsmNext va ec x r).run va ec bs := rfl

theorem Receiver.run_append (bs cs : List Byte) (r : Receiver) :
    r.run va ec (bs ++ cs) = (r.run va ec bs).run va ec cs := List.foldl_append

theorem Receiver.run_concat (bs : List Byte) (x : Byte) (r : Receiver) :
    r.run va ec (bs ++ [x]) = fsmNext va ec x (r.run va ec bs) := Receiver.run_append bs [x] r

/-- In Done no byte moves the FSM (log 16). -/
theorem Receiver.run_of_done (bs : List Byte) {r : Receiver} (hr : r.fsm = .done) : r.run va ec bs = r := by
  induction bs with
  | nil => rfl
  | cons x bs ih => rw [Receiver.run_cons, fsmNext_of_done hr, ih]

/-- A run that is not in Done was not in Done one byte earlier. -/
theorem fsm_ne_done_of_fsmNext {x : Byte} {r : Receiver} (h : (fsmNext va ec x r).fsm ≠ .done) : r.fsm ≠ .done :=
  fun hr => h (by rw [fsmNext_of_done hr, hr])

theorem fsmNext_ne_done_of_run {x : Byte} {bs : List Byte} {r : Receiver} (h : (r.run va ec (x :: bs)).fsm ≠ .done) :
    (fsmNext va ec x r).fsm ≠ .done :=
  fun hr => h (by rw [Receiver.run_cons, Receiver.run_of_done bs hr, hr])

/-- R132: bytes without FLAG are passed over. -/
theorem Receiver.run_of_flag_not_mem {bs : List Byte} (hbs : FLAG ∉ bs) {r : Receiver} (hr : r.fsm = .awaitFlag) :
    r.run va ec bs = r := by
  induction bs with
  | nil => rfl
  | cons x bs ih =>
    obtain ⟨hx, hrest⟩ : FLAG ≠ x ∧ FLAG ∉ bs := by simpa using hbs
    rw [Receiver.run_cons, fsmNext_awaitFlag_of_ne hr hx.symm, ih hrest]

/-- R142: whatever bytes a run sees, it records acceptable ones only. -/
theorem Receiver.Records.run {r : Receiver} (h : r.Records va ec) (bs : List Byte) :
    (r.run va ec bs).Records va ec := by
  induction bs generalizing r with
  | nil => exact h
  | cons x bs ih => exact ih (fsmNext_records x h)

/-! ## What the bytes of a run spell (R142) -/

/-- R142: the bytes of the frame that the FSM has matched so far. -/
def Receiver.matched (r : Receiver) : List Byte :=
  match r.fsm with
  | .awaitFlag => []
  | .awaitAddress => [FLAG]
  | .awaitControl => [FLAG, r.addr]
  | .awaitBcc1 => [FLAG, r.addr, r.ctrl]
  | .awaitTrailingFlag => [FLAG, r.addr, r.ctrl, bcc1 r.addr r.ctrl]
  | .done => [FLAG, r.addr, r.ctrl, bcc1 r.addr r.ctrl] ++ if isInfo r.ctrl then [] else [FLAG]

/-- R132, R133: after a byte that does not fit, at most that byte is matched. -/
theorem Receiver.matched_resync_suffix (bs : List Byte) (x : Byte) (r : Receiver) :
    (r.resync x).matched <:+ bs ++ [x] := by
  by_cases hx : x = FLAG
  · subst hx
    exact List.suffix_append bs [FLAG]
  · rw [Receiver.resync_of_ne hx]
    exact List.nil_suffix

/-- R141: a byte adds itself to what is matched, or the match starts anew with it. -/
theorem fsmNext_matched_suffix {r : Receiver} (h : r.Records va ec) (hr : r.fsm ≠ .done) (x : Byte) :
    (fsmNext va ec x r).matched <:+ r.matched ++ [x] := by
  have hresync := r.matched_resync_suffix r.matched x
  cases hf : r.fsm with
  | awaitFlag => rwa [fsmNext_of_awaitFlag hf]
  | awaitAddress =>
    rw [fsmNext_of_awaitAddress hf]
    split
    · simp [Receiver.matched, hf]
    · exact hresync
  | awaitControl =>
    rw [fsmNext_of_awaitControl hf]
    split
    · simp [Receiver.matched, hf]
    · exact hresync
  | awaitBcc1 =>
    rw [fsmNext_of_awaitBcc1 hf]
    split
    · next hx => cases hi : isInfo r.ctrl <;> simp [Receiver.matched, hf, hi, hx]
    · exact hresync
  | awaitTrailingFlag =>
    rw [fsmNext_of_awaitTrailingFlag hf]
    split
    · next hx => simp [Receiver.matched, hf, h.trailing hf, hx]
    · exact List.nil_suffix
  | done => exact absurd hf hr

/-- R142: what a run from AwaitFlag has matched are the last bytes it has seen, up to the byte that ends it. -/
theorem Receiver.matched_run_suffix {r : Receiver} (hr : r.fsm = .awaitFlag) (bs : List Byte)
    (hbs : (r.run va ec bs).fsm ≠ .done) : (r.run va ec bs).matched <:+ bs := by
  induction bs using List.reverseRecOn with
  | nil => simp [Receiver.run, Receiver.matched, hr]
  | append_singleton bs x ih =>
    rw [Receiver.run_concat] at hbs ⊢
    have hprev := fsm_ne_done_of_fsmNext hbs
    have hrecords := (records_of_empty (va := va) (ec := ec) (.inl hr)).run bs
    obtain ⟨before, hbefore⟩ := ih hprev
    exact (fsmNext_matched_suffix hrecords hprev x).trans ⟨before, by rw [← List.append_assoc, hbefore]⟩

end

/-- Settles O15: what the run had matched, and the byte that ends it, are the frame. -/
theorem acceptanceOnlyOfFrames : Obligations.AcceptanceOnlyOfFrames := by
  unfold Obligations.AcceptanceOnlyOfFrames
  intro va ec bs x r hr hbs hdone
  change (r.run va ec bs).fsm ≠ .done at hbs
  change (r.run va ec (bs ++ [x])).fsm = .done at hdone
  change ∃ before a c, a ∈ va ∧ c ∈ ec ∧ r.run va ec (bs ++ [x]) = { fsm := .done, addr := a, ctrl := c } ∧ _
  have hrecords := (records_of_empty (va := va) (ec := ec) (.inl hr)).run bs
  obtain ⟨before, hbefore⟩ := Receiver.matched_run_suffix hr bs hbs
  obtain ⟨start, hstart⟩ := fsmNext_matched_suffix hrecords hbs x
  rw [Receiver.run_concat] at hdone ⊢
  obtain ⟨hfrom, hto⟩ := fsmNext_done hbs hdone
  generalize r.run va ec bs = q at *
  refine ⟨before ++ start, q.addr, q.ctrl, hrecords.addr (.inr hfrom), hrecords.ctrl hfrom, hto, ?_⟩
  have hbytes : bs ++ [x] = before ++ start ++ Receiver.matched { q with fsm := .done } := by
    rw [← hbefore, List.append_assoc, ← hstart, hto, List.append_assoc]
  cases hi : isInfo q.ctrl
  · exact .inl ⟨rfl, by simpa [Receiver.matched, hi, bcc1] using hbytes⟩
  · exact .inr ⟨rfl, by simpa [Receiver.matched, hi, bcc1] using hbytes⟩

/-! ## A frame behind noise (R138, R262) -/

/-- R131, R133: a FLAG opens a frame wherever it closes none: no address, no expected code and no BCC1 is a FLAG. -/
theorem fsmNext_flag_of_records {ec : List Byte} {q : Receiver} (hec : ec ⊆ controlCodes)
    (h : q.Records validAddresses ec) (hd : q.fsm ≠ .done) (ht : q.fsm ≠ .awaitTrailingFlag) :
    fsmNext validAddresses ec FLAG q = { q with fsm := .awaitAddress } := by
  have hcode : FLAG ∉ ec := fun hmem => absurd (hec hmem) (by decide)
  cases hf : q.fsm with
  | awaitFlag => exact fsmNext_flag flag_not_mem_validAddresses (.inl hf)
  | awaitAddress => exact fsmNext_flag flag_not_mem_validAddresses (.inr hf)
  | awaitControl => rw [fsmNext_of_awaitControl hf, if_neg hcode, Receiver.resync_flag]
  | awaitBcc1 =>
    have hbcc := bcc1_ne_flag_and_ne_esc _ (h.addr (.inr (.inl hf))) _ (hec (h.ctrl (.inl hf)))
    rw [fsmNext_of_awaitBcc1 hf, if_neg hbcc.1.symm, Receiver.resync_flag]
  | awaitTrailingFlag => exact absurd hf ht
  | done => exact absurd hf hd

/-- R133 to R135: behind its opening FLAG an expected frame brings a run to Done. -/
theorem Receiver.run_frame {va ec : List Byte} {a c : Byte} {q : Receiver} (hq : q.fsm = .awaitAddress) (ha : a ∈ va)
    (hc : c ∈ ec) : q.run va ec ([a, c, bcc1 a c] ++ if isInfo c then [] else [FLAG]) =
      { fsm := .done, addr := a, ctrl := c } := by
  change q.run va ec (a :: c :: bcc1 a c :: if isInfo c then [] else [FLAG]) = _
  rw [run_cons, fsmNext_address hq ha, run_cons, fsmNext_control rfl hc, run_cons]
  cases hi : isInfo c
  · rw [fsmNext_bcc1_of_ctrl hi, if_neg Bool.false_ne_true, run_cons, fsmNext_trailingFlag rfl]
    rfl
  · rw [fsmNext_bcc1_of_info hi]
    rfl

/-- Settles O16: the noise leaves a run that the frame's FLAG restarts; the rest of the frame then ends it. -/
theorem noFrameMissed : Obligations.NoFrameMissed := by
  unfold Obligations.NoFrameMissed
  intro ec noise a c r hr hec ha hc hdone htrailing
  have hrecords := (records_of_empty (va := validAddresses) (ec := ec) (.inl hr)).run noise
  have hflag := fsmNext_flag_of_records hec hrecords hdone htrailing
  change r.run validAddresses ec _ = _
  rw [List.append_assoc, Receiver.run_append, List.cons_append, Receiver.run_cons, hflag]
  exact Receiver.run_frame rfl ha hc

/-! ## A frame that the engine drops (R183) -/

/-- R61, R130, R208: bytes that do not bring the FSM to Done are counted and move the FSM, and nothing else happens. -/
theorem takeBytes_tookTo_of_run_not_done {s : State} (hop : s.op.runsFsm = true) (bs rest : List Byte) (n : Nat) :
    ∀ (k : Nat) (q : Receiver), (q.run validAddresses s.expected bs).fsm ≠ .done →
      State.takeBytes (n + bs.length) (s.tookTo k q (bs ++ rest)) =
        State.takeBytes n (s.tookTo (k + bs.length) (q.run validAddresses s.expected bs) rest) := by
  induction bs with
  | nil => intro k q _; rfl
  | cons x bs ih =>
    intro k q hrun
    rw [List.length_cons, ← Nat.add_assoc, List.cons_append,
      takeBytes_tookTo_of_not_done hop _ k rfl (fsmNext_ne_done_of_run hrun), ih (k + 1) _ hrun,
      Nat.add_assoc k, Nat.add_comm 1, Receiver.run_cons]

/-- R131, R133, R141: behind its opening FLAG an information frame that is not expected is passed over; its closing FLAG may
open the next frame. -/
theorem Receiver.run_infoFrame_of_not_mem {ec : List Byte} {a : Byte} {b : Bool} {q : Receiver}
    (hq : q.fsm = .awaitAddress) (ha : a ∈ validAddresses) (hb : infoCode b ∉ ec) (p : List Byte) :
    q.run validAddresses ec (infoInner a b p ++ [FLAG]) = { q with fsm := .awaitAddress, addr := a } := by
  have hflag := flag_not_mem_infoInner ha b p
  obtain ⟨-, hcode, hrest⟩ : FLAG ≠ a ∧ FLAG ≠ infoCode b ∧
      FLAG ∉ bcc1 a (infoCode b) :: stuffSeq (p ++ [bcc2 p]) := by
    simpa [infoInner] using hflag
  have hinner : q.run validAddresses ec (infoInner a b p) = { q with fsm := .awaitFlag, addr := a } := by
    change q.run validAddresses ec (a :: infoCode b :: bcc1 a (infoCode b) :: stuffSeq (p ++ [bcc2 p])) = _
    rw [run_cons, fsmNext_address hq ha, run_cons, fsmNext_of_awaitControl rfl, if_neg hb, resync_of_ne hcode.symm,
      run_of_flag_not_mem hrest rfl]
  rw [run_concat, hinner]
  exact fsmNext_flag flag_not_mem_validAddresses (.inl rfl)

/-- R133, R183: the engine takes such a frame whole, and only the FSM and the count of the bytes show it. -/
theorem receive_encInfo_of_not_expected {s : State} {a : Byte} {b : Bool} (hop : s.op.runsFsm = true) (hrx : s.rx = [])
    (hr : s.rcv.fsm = .awaitFlag ∨ s.rcv.fsm = .awaitAddress) (ha : a ∈ validAddresses) (hb : infoCode b ∉ s.expected)
    (p : List Byte) : s.receive (encInfo a b p) =
      s.tookTo (encInfo a b p).length { s.rcv with fsm := .awaitAddress, addr := a } [] := by
  have hopen := takeBytes_of_not_done (s := { s with rx := encInfo a b p }) hop (infoInner a b p ++ [FLAG]).length
    (encInfo_eq_enclosed a b p) (fsmNext_flag flag_not_mem_validAddresses hr) nofun
  have hpassed := Receiver.run_infoFrame_of_not_mem (q := { s.rcv with fsm := .awaitAddress }) rfl ha hb p
  have hrest := takeBytes_tookTo_of_run_not_done hop (infoInner a b p ++ [FLAG]) [] 0 1
    { s.rcv with fsm := .awaitAddress } (by rw [hpassed]; nofun)
  rw [hpassed, List.append_nil, Nat.zero_add] at hrest
  have hlength : (encInfo a b p).length = (infoInner a b p ++ [FLAG]).length + 1 := by rw [encInfo_eq_enclosed]; rfl
  rw [receive_of_rx_nil hrx, hlength, hopen, Nat.add_comm]
  exact hrest

theorem infoCode_not_ne (b : Bool) : infoCode (!b) ≠ infoCode b := by cases b <;> decide

/-- Settles O39: the code of the other bit is not the one READ expects. -/
theorem duplicateDropped : Obligations.DuplicateDropped := by
  unfold Obligations.DuplicateDropped
  intro s a p hop hrx hr ha
  have hcode : infoCode (!s.rxbit) ∉ s.expected := by
    simpa [expected_of_readHeader hop] using infoCode_not_ne s.rxbit
  rw [exec, execInfoFrame, receive_encInfo_of_not_expected (by rw [hop]; rfl) hrx hr ha hcode, State.tookTo,
    State.took, hrx]

/-! ## The instruction a step runs (R136, R228, R231) -/

/-- R228: an event other than RxByte that comes first runs its instruction on the state whose line for it has fallen. -/
theorem step_of_readyEvent {s : State} {e : Event} (h : s.dropPulses.readyEvent = some e) (he : ∀ x, e ≠ .rxByte x) :
    step s = exec ((s.dropPulses.consume e).eventInstr e) (s.dropPulses.consume e) := by
  unfold step
  simp only [h]
  exact takeEvent_other _ he

/-- R231: behind Reset, XportErr and RxByte a Timeout that is due comes first, and then a word in CMD. -/
theorem readyEvent_of_no_byte {s : State} (hrst : s.pend.rst = false) (herr : s.pend.xportErr = false)
    (hbyte : s.pend.rxValid = false ∨ s.op = .idle ∨ s.rx = []) :
    s.readyEvent = if s.timeoutDue then some .timeout else s.pend.cmd.map .cmd := by
  have hno : ¬((s.pend.rxValid && s.rxReady) = true ∧ s.rx ≠ []) := by
    rcases hbyte with h | h | h <;> simp [h, State.rxReady, State.busy]
  unfold State.readyEvent
  rw [hrst, herr, if_neg nofun, if_neg nofun]
  split
  · next x rest hv hrx => exact absurd ⟨hv, by simp [hrx]⟩ hno
  · cases s.pend.cmd <;> rfl

/-- R80 to R82: a word that decodes as a frame is one whole frame, with nothing behind it. -/
theorem decodeFrame_of_decode_frame {bs : List Byte} {i : Instr} (h : decode (.frame bs) = .ok i) :
    decodeFrame bs = .ok (i, []) := by
  rw [decode] at h
  split at h
  · cases h
  · next hok => cases h; exact hok
  · cases h

/-- A whole frame that is the environment's next move runs its instruction (log 15). -/
theorem step_of_quiet_frame {s : State} {bs : List Byte} {rest : List Input} {i : Instr} (hq : s.Quiet)
    (hi : s.inputs = .line bs :: rest) (hdec : decodeFrame bs = .ok (i, [])) : step s = exec i (s.afterMove rest) := by
  unfold step
  simp only [readyEvent_of_quiet hq, State.nextInput, State.dropPulses_inputs, hi, hdec]
  rfl

/-- R28, R61: a byte is taken in the positions in which the FSM runs and in ReadBody. -/
theorem runsFsm_of_taking {o : Op} (hidle : o ≠ .idle) (hbody : o ≠ .readBody) : o.runsFsm = true := by
  cases o with
  | idle => exact absurd rfl hidle
  | readBody => exact absurd rfl hbody
  | _ => rfl

/-- R136: the instruction that CTRL holds is the operation's action on it. -/
theorem exec_of_decodeControl {i : Instr} {t : State} (h : decodeControl t.rcv.ctrl = .ok i) :
    exec i t = .next t.actOnCtrl := by
  rw [← exec_decodeControl, h]

/-- Settles O35, event by event in R231's order, then the environment's move. -/
theorem stepRunsInstruction : Obligations.StepRunsInstruction := by
  unfold Obligations.StepRunsInstruction
  intro s i
  refine ⟨fun hrst => ?_, fun hrst herr => ?_, fun hrst herr hbyte => ⟨fun ha h0 => ?_, fun hdue w hw hdec => ?_⟩,
    fun x rest h hop hr t ht => ⟨fun hd => ?_, fun hd hdec => ?_⟩, fun x rest h hop hx => ?_,
    fun bs rest hq hi hdec => ?_⟩
  · exact step_of_readyEvent (e := .reset) (by simp [State.readyEvent, hrst]) nofun
  · exact step_of_readyEvent (e := .xportErr) (by simp [State.readyEvent, hrst, herr]) nofun
  · have hready := readyEvent_of_no_byte (s := s.dropPulses) hrst herr hbyte
    exact step_of_readyEvent (e := .timeout) (by simp [hready, State.timeoutDue, ha, h0]) nofun
  · have hready := readyEvent_of_no_byte (s := s.dropPulses) hrst herr hbyte
    have hnot : s.dropPulses.timeoutDue = false := by rcases hdue with h | h <;> simp [State.timeoutDue, h]
    cases hdec
    exact step_of_readyEvent (e := .cmd w) (by simp [hready, hnot, hw]) nofun
  · cases ht
    exact step_of_offers_not_done h (runsFsm_of_taking h.taking hop) hd
  · cases ht
    exact (step_of_offers_done h (runsFsm_of_taking h.taking hop) hr hd).trans (exec_of_decodeControl hdec).symm
  · rw [step_of_offers_readBody h hop, State.bodyByte, if_neg hx]
    rfl
  · exact step_of_quiet_frame hq hi (decodeFrame_of_decode_frame hdec)

end Sys2Proof.Machine
end

section
/-! PROOFS. Family 42_lifecycle, OPEN and CLOSE: how they start (O18, O19), their step on a byte (O26), and the step on a Timeout of every timed operation (O30). -/

namespace Sys2Proof.Machine

open Sys2Proof.Config

/-! ## The step on a byte of OPEN and of CLOSE (R136, R153, R158) -/

theorem expected_of_openWait {s : State} (hop : s.op = .openWait) : s.expected = [SET, UA] := by
  simp [State.expected, hop, expectedControls]

theorem expected_of_closeWait {s : State} (hop : s.op = .closeWait) : s.expected = [DISC, UA] := by
  simp [State.expected, hop, expectedControls]

/-- R136, R142: where a run expects two codes, a byte short of Done moves the receiver only; at Done CTRL holds one of
the two and the operation acts on it. -/
theorem step_of_offers_of_expected_pair {s : State} {x : Byte} {rest : List Byte} {c d : Byte} (hs : s.Sequenced)
    (h : s.Offers x rest) (hop : s.op.runsFsm = true) (he : s.expected = [c, d]) :
    let u := { s.afterTaking rest with rcv := fsmNext validAddresses [c, d] x s.rcv }
    (u.rcv.fsm ≠ .done → step s = .next u) ∧
    (u.rcv.fsm = .done → step s = .next u.actOnCtrl ∧ (u.rcv.ctrl = c ∨ u.rcv.ctrl = d)) := by
  have hgo := step_of_offers_not_done (x := x) h hop
  have hdone := step_of_offers_done (x := x) h hop (hs.running hop)
  have hmem := ctrl_mem_expected_of_done (x := x) hs hop
  rw [he] at hgo hdone hmem
  exact ⟨hgo, fun hd => ⟨hdone hd, by simpa using hmem hd⟩⟩

section

variable {u : State} (hd : u.rcv.fsm = .done)
include hd

theorem actOnCtrl_set_of_openWait (hop : u.op = .openWait) (hc : u.rcv.ctrl = SET) :
    u.actOnCtrl = u.sendUa.openDone := by
  rw [actOnCtrl_set hc, State.onSet, acceptCode_of_expected hd hc (mem_expected_of_openWait hop).1]

theorem actOnCtrl_ua_of_openWait (hop : u.op = .openWait) (hc : u.rcv.ctrl = UA) : u.actOnCtrl = u.openDone := by
  rw [actOnCtrl_ua hc, State.onUa, acceptCode_of_expected hd hc (mem_expected_of_openWait hop).2,
    if_neg (by simp [hop])]

theorem actOnCtrl_disc_of_closeWait (hop : u.op = .closeWait) (hc : u.rcv.ctrl = DISC) :
    u.actOnCtrl = u.sendUa.closeDone := by
  rw [actOnCtrl_disc hc, State.onDisc, acceptCode_of_expected hd hc (mem_expected_of_closeWait hop).1]

theorem actOnCtrl_ua_of_closeWait (hop : u.op = .closeWait) (hc : u.rcv.ctrl = UA) : u.actOnCtrl = u.closeDone := by
  rw [actOnCtrl_ua hc, State.onUa, acceptCode_of_expected hd hc (mem_expected_of_closeWait hop).2, if_pos hop]

end

/-- Settles O26: in each operation, whether the FSM reaches Done, and with which of the two expected codes. -/
theorem lifecycleByteSteps : Obligations.LifecycleByteSteps := by
  unfold Obligations.LifecycleByteSteps
  intro s x rest hs h
  refine ⟨fun hop => ?_, fun hop => ?_⟩
  · obtain ⟨hgo, hdone⟩ := step_of_offers_of_expected_pair hs h (by rw [hop]; rfl) (expected_of_openWait hop)
    refine ⟨hgo, fun hd hset => ?_, fun hd hne => ?_⟩
    · exact (hdone hd).1.trans (congrArg Host.Outcome.next (actOnCtrl_set_of_openWait hd hop hset))
    · have hua := (hdone hd).2.resolve_left hne
      exact ⟨hua, (hdone hd).1.trans (congrArg Host.Outcome.next (actOnCtrl_ua_of_openWait hd hop hua))⟩
  · obtain ⟨hgo, hdone⟩ := step_of_offers_of_expected_pair hs h (by rw [hop]; rfl) (expected_of_closeWait hop)
    refine ⟨hgo, fun hd hdisc => ?_, fun hd hne => ?_⟩
    · exact (hdone hd).1.trans (congrArg Host.Outcome.next
        ((actOnCtrl_disc_of_closeWait hd hop hdisc).trans (State.closeDone_eq _)))
    · have hua := (hdone hd).2.resolve_left hne
      exact ⟨hua, (hdone hd).1.trans (congrArg Host.Outcome.next
        ((actOnCtrl_ua_of_closeWait hd hop hua).trans (State.closeDone_eq _)))⟩

/-! ## The start of OPEN and of CLOSE (R151, R152, R156, R157) -/

/-- R209: sending nothing leaves a counter that is in its width. -/
theorem State.txFrame_nil {s : State} (h : s.stat.bytesSent < 2 ^ s.build.cntW) : s.txFrame [] = s := by
  simp [State.txFrame, State.bumped, Nat.mod_eq_of_lt h]

/-- R152, R154: what an attempt of OPEN sends, as one frame, empty for a Responder. -/
theorem State.sendSet_eq {s : State} (h : s.stat.bytesSent < 2 ^ s.build.cntW) :
    s.sendSet = s.txFrame (if s.role = .initiator then [0x5C, 0x01, 0x07, 0x06, 0x5C] else []) := by
  cases hr : s.role with
  | initiator => rw [State.sendSet, hr]; rfl
  | responder => rw [State.sendSet, hr]; exact (State.txFrame_nil h).symm

/-- R157, R159: what an attempt of CLOSE sends, as one frame, empty for a Responder. -/
theorem State.sendDisc_eq {s : State} (h : s.stat.bytesSent < 2 ^ s.build.cntW) :
    s.sendDisc = s.txFrame (if s.role = .initiator then [0x5C, 0x01, 0x0A, 0x0B, 0x5C] else []) := by
  cases hr : s.role with
  | initiator => rw [State.sendDisc, hr]; rfl
  | responder => rw [State.sendDisc, hr]; exact (State.txFrame_nil h).symm

/-- R151: where it is not refused, OPEN starts. -/
theorem exec_cmdOpen_of_accepted {s : State} (hop : s.op = .idle) (hf : s.openf = false) (hn : s.cfgTries ≠ 0)
    (ht : s.cfgTimeout ≠ 0) : exec .cmdOpen s = .next s.openStart := by
  have hbusy : s.busy = false := by simp [State.busy, hop]
  have hok : s.openRefused = false := by simp [State.openRefused, hf, hn, ht]
  simp [exec, execOpen, hbusy, hok]

/-- R156: where it is not refused, CLOSE starts. -/
theorem exec_cmdClose_of_accepted {s : State} (collect : Bool) (hop : s.op = .idle) (hf : s.openf = true) :
    exec (.cmdClose collect) s = .next (s.closeStart collect) := by
  have hbusy : s.busy = false := by simp [State.busy, hop]
  have hok : s.closeRefused = false := by simp [State.closeRefused, hf]
  simp [exec, execClose, hbusy, hok]

/-- Settles O18, for each role: the counters start at 0, in which an Initiator's SET is then counted. -/
theorem openStarts : Obligations.OpenStarts := by
  unfold Obligations.OpenStarts
  intro s hop hf hn ht
  rw [exec_cmdOpen_of_accepted hop hf hn ht, State.openStart, State.sendSet_eq (Nat.two_pow_pos _)]
  cases s.cfgRole <;>
    simp [State.txFrame, State.awaitAnswer, State.startRun, State.armTimer, State.bumped, Stats.zero]

/-- Settles O19, for each role. -/
theorem closeStarts : Obligations.CloseStarts := by
  unfold Obligations.CloseStarts
  intro s collect hop hf hwidth
  rw [exec_cmdClose_of_accepted collect hop hf, State.closeStart, State.sendDisc_eq (by exact hwidth)]
  cases s.role <;>
    simp [State.txFrame, State.awaitAnswer, State.startRun, State.armTimer, State.bumped]

/-! ## The step on a Timeout (R154, R159, R176, R188) -/

/-- R188, R205: within the budget a Timeout's increment of RETRY does not wrap (log 24). -/
theorem State.timedOut_eq {s : State} (hretry : s.retry ≤ s.numTries) (hwidth : s.numTries < 2 ^ s.build.triesW) :
    s.timedOut = { s with
      tmr := 0, tarmed := false
      stat := { s.stat with timeouts := (s.stat.timeouts + 1) % 2 ^ s.build.cntW }, retry := s.retry + 1 } :=
  State.bumpRetry_eq (s := s.expire.countTimeout) hretry hwidth

/-- R188: the retry compare of a Timeout. -/
theorem State.timedOut_exhausted_iff {s : State} (hretry : s.retry ≤ s.numTries)
    (hwidth : s.numTries < 2 ^ s.build.triesW) : s.timedOut.exhausted = true ↔ s.numTries < s.retry + 1 := by
  rw [State.timedOut_eq hretry hwidth]
  exact decide_eq_true_iff

/-- R210: the pulse of stats_valid by COLLECT. -/
theorem State.reportStats_eq (s : State) :
    s.reportStats = { s with statsValid := s.statsValid || s.collect } := by
  have hvalid : (s.statsValid || s.collect) = if s.collect then true else s.statsValid := by cases s.collect <;> simp
  rw [State.reportStats, hvalid]
  split <;> rfl

section

variable {s : State} (ha : s.tarmed = true)
include ha

theorem onTimeout_of_openWait (hop : s.op = .openWait) : s.onTimeout =
    if s.timedOut.exhausted then s.timedOut.finish .retriesExhausted else s.timedOut.sendSet.awaitAnswer := by
  rw [State.onTimeout, if_pos ha, hop]
  rfl

theorem onTimeout_of_writeWait (hop : s.op = .writeWait) : s.onTimeout =
    if s.timedOut.exhausted then s.timedOut.finish .retriesExhausted else s.timedOut.resend := by
  rw [State.onTimeout, if_pos ha, hop]
  rfl

theorem onTimeout_of_closeWait (hop : s.op = .closeWait) : s.onTimeout =
    if s.timedOut.exhausted then (State.reportStats { s.timedOut with openf := false }).finish .retriesExhausted
    else s.timedOut.sendDisc.awaitAnswer := by
  rw [State.onTimeout, if_pos ha, hop]
  rfl

end

/-- Settles O30: RETRY, one higher, passes the budget and the operation ends, or its frame is sent again. -/
theorem timeoutSteps : Obligations.TimeoutSteps := by
  unfold Obligations.TimeoutSteps
  intro s hb hw ha
  have hout (htimed : s.op.timed = true) := State.timedOut_eq (hb.attempt htimed) hw.numTries
  have hpast (htimed : s.op.timed = true) := State.timedOut_exhausted_iff (hb.attempt htimed) hw.numTries
  refine ⟨fun hop hlt => ?_, fun hop hlt => ?_, fun f hf hle => ?_⟩
  · have htimed : s.op.timed = true := by rcases hop with hop | hop <;> rw [hop] <;> rfl
    have hx := (hpast htimed).mpr hlt
    have hfails : s.onTimeout = s.timedOut.finish .retriesExhausted := by
      rcases hop with hop | hop
      · rw [onTimeout_of_openWait ha hop, if_pos hx]
      · rw [onTimeout_of_writeWait ha hop, if_pos hx]
    rw [exec, execTimeout, hfails, hout htimed]
    rfl
  · have htimed : s.op.timed = true := by rw [hop]; rfl
    rw [exec, execTimeout, onTimeout_of_closeWait ha hop, if_pos ((hpast htimed).mpr hlt), hout htimed,
      State.reportStats_eq]
    rfl
  · have htimed : s.op.timed = true := by
      rcases hf with ⟨hop, -⟩ | ⟨hop, -⟩ | ⟨hop | hop, -⟩ | ⟨hop, -⟩ <;> rw [hop] <;> rfl
    have hx : ¬s.timedOut.exhausted = true := mt (hpast htimed).mp (by omega)
    have hset := State.sendSet_eq (s := s.timedOut) hw.bytesSent
    have hdisc := State.sendDisc_eq (s := s.timedOut) hw.bytesSent
    have hsends : s.onTimeout = (s.timedOut.txFrame f).awaitAnswer := by
      rcases hf with ⟨hop, hr, rfl⟩ | ⟨hop, hr, rfl⟩ | ⟨hop | hop, hr, rfl⟩ | ⟨hop, rfl⟩
      · rw [onTimeout_of_openWait ha hop, if_neg hx, hset, if_pos (by simp [hr])]
      · rw [onTimeout_of_closeWait ha hop, if_neg hx, hdisc, if_pos (by simp [hr])]
      · rw [onTimeout_of_openWait ha hop, if_neg hx, hset, if_neg (by simp [hr])]
      · rw [onTimeout_of_closeWait ha hop, if_neg hx, hdisc, if_neg (by simp [hr])]
      · rw [onTimeout_of_writeWait ha hop, if_neg hx]
        rfl
    rw [exec, execTimeout, hsends, hout htimed]
    rfl

end Sys2Proof.Machine
end

section
/-! PROOFS. Family 43_data_transfer: the sequence bits as parities of the frame counters (O58), WRITE's step on a byte (O27), READ without a bound of its own (O49), the bound of the timed operations in ticks (O52), and the timer's rows (O29). -/

namespace Sys2Proof.Machine

/-! ## The sequence bits are parities of the frame counters (R190, R201, R202, R209) -/

/-- R209: a counter of at least one bit changes its parity when it is bumped, also where it wraps. -/
theorem State.bumped_one_odd {s : State} (hwidth : 1 ≤ s.build.cntW) (c : Nat) :
    decide (s.bumped c 1 % 2 = 1) = !decide (c % 2 = 1) := by
  have hflip : (c + 1) % 2 = 1 ↔ ¬c % 2 = 1 := by omega
  rw [State.bumped, Nat.mod_mod_of_dvd _ (dvd_pow_self 2 (by omega))]
  rw [← decide_not]
  exact decide_eq_decide.mpr hflip

namespace State.InParity

variable {s t : State}

/-- The invariant looks at the two bits, their counters and the build parameters. -/
theorem congr (h : s.InParity) (htx : t.txbit = s.txbit := by simp) (hrx : t.rxbit = s.rxbit := by simp)
    (hsent : t.stat.framesSent = s.stat.framesSent := by simp)
    (hrecv : t.stat.framesRecv = s.stat.framesRecv := by simp) (hbuild : t.build = s.build := by simp) :
    t.InParity := by
  constructor
  · rw [hbuild]; exact h.width
  · rw [htx, hsent]; exact h.send
  · rw [hrx, hrecv]; exact h.receive

theorem ports (h : s.InParity) {rx : List Byte} {inputs : List Input} {pend : Lines} :
    State.InParity { s with rx := rx, inputs := inputs, pend := pend } := h.congr rfl rfl rfl rfl rfl

/-- R174: an acknowledged frame flips TXBIT and is counted. -/
theorem writeAcknowledged (h : s.InParity) : s.writeAcknowledged.InParity where
  width := h.width
  send := by simp [State.bumped_one_odd h.width, h.send]
  receive := h.receive

/-- R181: an accepted body flips RXBIT and is counted. -/
theorem readAccepted (h : s.InParity) : s.readAccepted.InParity where
  width := h.width
  send := h.send
  receive := (congrArg not h.receive).trans (State.bumped_one_odd h.width _).symm

theorem writeRejected (h : s.InParity) : s.writeRejected.InParity := by
  obtain heq | ⟨-, heq⟩ := writeRejected_cases s <;> rw [heq] <;> exact h.congr

theorem sendSet (h : s.InParity) : s.sendSet.InParity := by
  unfold State.sendSet
  split <;> exact h.congr

theorem sendDisc (h : s.InParity) : s.sendDisc.InParity := by
  unfold State.sendDisc
  split <;> exact h.congr

/-- Each action on a received byte keeps the parities, in any state. -/
theorem keptByByteActions : KeptByByteActions State.InParity where
  receiver _ _ h := h.congr rfl rfl rfl rfl rfl
  countReceived _ h := h.congr
  handOver _ _ h := h.congr
  bodyStep _ _ h := h.congr rfl rfl rfl rfl rfl
  sendUa _ h := h.congr
  openDone _ h := h.congr
  closeDone _ h := h.congr
  writeAcknowledged _ h := h.writeAcknowledged
  writeRejected _ h := h.writeRejected
  enterBody _ h := h.congr
  readAccepted _ h := h.readAccepted
  readRejected _ h := h.congr (hsent := rfl) (hrecv := rfl)

theorem timeoutMoves (h : s.InParity) (hm : s.TimeoutMoves t) : t.InParity := by
  have hout : s.timedOut.InParity := h.congr
  cases hm with
  | unreached | openFails | writeFails | closeFails | writeRetries => exact h.congr
  | openRetries => exact hout.sendSet.congr
  | closeRetries => exact hout.sendDisc.congr

/-- R152: OPEN clears the bits and the counters. -/
theorem openStart (h : s.InParity) : s.openStart.InParity := by
  have hload : State.InParity { s with
      role := s.cfgRole, numTries := s.cfgTries, timeOut := s.cfgTimeout, stat := Stats.zero
      txbit := false, rxbit := false, retry := 0, result := .none } := ⟨h.width, rfl, rfl⟩
  exact hload.sendSet.congr (hsent := rfl) (hrecv := rfl)

theorem closeStart (h : s.InParity) (c : Bool) : (s.closeStart c).InParity := by
  have hload : State.InParity { s with collect := c, retry := 0, result := .none } := h.congr rfl rfl rfl rfl rfl
  exact hload.sendDisc.congr (hsent := rfl) (hrecv := rfl)

theorem commandMoves (h : s.InParity) (hm : s.CommandMoves t) : t.InParity := by
  cases hm with
  | busy => exact h
  | refused | reads => exact h.congr
  | opens => exact h.openStart
  | writes => exact h.congr (hsent := rfl) (hrecv := rfl)
  | closes _ _ c => exact h.closeStart c

theorem inputMoves (h : s.InParity) (hm : s.InputMoves t) : t.InParity := by
  cases hm <;> exact h.congr rfl rfl rfl rfl rfl

theorem onXportErr (h : s.InParity) : s.onXportErr.InParity := by
  obtain ⟨-, heq⟩ | ⟨-, heq⟩ := onXportErr_cases s <;> rw [heq]
  · exact h
  · exact h.congr

/-- R45, R250: reset clears the bits and the counters. -/
theorem onReset (h : s.InParity) : s.onReset.InParity := ⟨h.width, rfl, rfl⟩

end State.InParity

/-- Settles O58: the rule of a byte in any state, and one case a kind of move; only an acknowledged frame and an accepted
body move a bit, each with its counter. -/
theorem parityKept : Obligations.ParityKept := by
  unfold Obligations.ParityKept
  intro s t hs h
  exact step_keeps (P := State.InParity)
    (hdrop := fun _ h => h.congr)
    (hrx := fun _ _ h => h.ports)
    (hnext := fun _ _ h => h.ports)
    (hrst := fun _ h => h.ports.onReset)
    (hxport := fun _ h => h.ports.onXportErr)
    (hvalid := fun _ h => h.ports)
    (hbyte := fun _ x h _ => State.InParity.keptByByteActions.rxByte x h)
    (htime := fun _ h ha _ => h.timeoutMoves (onTimeout_moves ha))
    (hcmd := fun _ w h _ => h.ports.commandMoves (command_moves w _))
    (hinput := fun _ _ _ h _ ht hm => h.inputMoves (applyInput_moves hm ht)) h hs

/-! ## WRITE's step on a byte (R136, R173 to R175, R188) -/

theorem expected_of_writeWait {s : State} (hop : s.op = .writeWait) :
    s.expected = [rrCode s.txbit, rejCode s.txbit] := by
  simp [State.expected, hop, expectedControls]

section

variable {u : State} (hd : u.rcv.fsm = .done) (hop : u.op = .writeWait)
include hd hop

theorem actOnCtrl_rr_of_writeWait (hc : u.rcv.ctrl = rrCode u.txbit) : u.actOnCtrl = u.writeAcknowledged := by
  rw [actOnCtrl_rr u.txbit hc, State.onRr, acceptCode_of_expected hd hc (by simp [expected_of_writeWait hop])]

theorem actOnCtrl_rej_of_writeWait (hc : u.rcv.ctrl = rejCode u.txbit) : u.actOnCtrl = u.writeRejected := by
  rw [actOnCtrl_rej u.txbit hc, State.onRej, acceptCode_of_expected hd hc (by simp [expected_of_writeWait hop])]

end

section

variable {u : State} (hretry : u.retry ≤ u.numTries) (hwidth : u.numTries < 2 ^ u.build.triesW)
include hretry hwidth

/-- R188: the retry compare of a REJ. -/
theorem State.turnedDown_exhausted_iff : u.turnedDown.exhausted = true ↔ u.numTries < u.retry + 1 := by
  rw [State.turnedDown_eq hretry hwidth]
  exact decide_eq_true_iff

/-- R175: the REJ that passes the budget, as one record. -/
theorem State.writeRejected_eq_of_lt (hlt : u.numTries < u.retry + 1) : u.writeRejected = { u with
    stat := { u.stat with rejRecv := (u.stat.rejRecv + 1) % 2 ^ u.build.cntW }
    retry := u.retry + 1, tarmed := false, op := .idle, result := .retriesExhausted, done := true } := by
  rw [writeRejected_of_exhausted ((State.turnedDown_exhausted_iff hretry hwidth).mpr hlt),
    State.turnedDown_eq hretry hwidth]
  rfl

/-- R175: a REJ within the budget, as one record. -/
theorem State.writeRejected_eq_of_le (hle : u.retry + 1 ≤ u.numTries) : u.writeRejected = { u with
    stat := { u.stat with
      rejRecv := (u.stat.rejRecv + 1) % 2 ^ u.build.cntW
      bytesSent := (u.stat.bytesSent + u.framelen) % 2 ^ u.build.cntW }
    retry := u.retry + 1, tx := u.tx ++ u.framebuf.readList .framebuf u.fresh 0 u.framelen
    rcv := { u.rcv with fsm := .awaitFlag }, tmr := u.timeOut, tarmed := true } := by
  have hin : u.turnedDown.exhausted = false :=
    Bool.eq_false_iff.mpr (mt (State.turnedDown_exhausted_iff hretry hwidth).mp (by omega))
  rw [writeRejected_of_not_exhausted hin, State.turnedDown_eq hretry hwidth]
  simp only [State.resend, State.awaitAnswer, State.startRun, State.armTimer, State.txFrame, State.bumped,
    State.heldFrame, Memory.length_readList]

end

/-- Settles O27: whether the FSM reaches Done, with which of the two expected codes, and for REJ the retry compare. -/
theorem writeByteStep : Obligations.WriteByteStep := by
  unfold Obligations.WriteByteStep
  intro s x rest hs hb hw hop h
  obtain ⟨hgo, hdone⟩ := step_of_offers_of_expected_pair hs h (by rw [hop]; rfl) (expected_of_writeWait hop)
  refine ⟨hgo, fun hd hrr => ?_, fun hd hne => ?_⟩
  · obtain ⟨hstep, -⟩ := hdone hd
    exact hstep.trans (congrArg Host.Outcome.next (actOnCtrl_rr_of_writeWait hd hop hrr))
  · obtain ⟨hstep, hcode⟩ := hdone hd
    have hrej := hcode.resolve_left hne
    have hact := hstep.trans (congrArg Host.Outcome.next (actOnCtrl_rej_of_writeWait hd hop hrej))
    have hattempt : s.retry ≤ s.numTries := hb.attempt (by rw [hop]; rfl)
    refine ⟨hrej, fun hlt => ?_, fun hle => ?_⟩
    · exact hact.trans (congrArg Host.Outcome.next (State.writeRejected_eq_of_lt hattempt hw.numTries hlt))
    · exact hact.trans (congrArg Host.Outcome.next (State.writeRejected_eq_of_le hattempt hw.numTries hle))

/-! ## The step while an operation is in progress (R228, R237) -/

/-- The rule for a property of one operation, up to and including its end: while OP is not Idle no command is taken, so each
move but a reset is a byte, a Timeout, a transport error or a move of the environment. -/
theorem step_keeps_of_running {P : State → Prop}
    (hports : ∀ (s : State) done stats rx inputs pend, P s →
      P { s with done := done, statsValid := stats, rx := rx, inputs := inputs, pend := pend })
    (hxport : ∀ s, P s → P s.onXportErr) (hbyte : ∀ s x t, P s → s.ByteMoves x t → P t)
    (htime : ∀ s t, P s → s.op.timed = true → s.TimeoutMoves t → P t) (hinput : ∀ s t, P s → s.InputMoves t → P t)
    {s t : State} (h : step s = .next t) (hs : s.Sequenced) (hop : s.op ≠ .idle) (hp : P s) :
    s.pend.rst = true ∧ t.op = .idle ∨ P t := by
  have hdrop : P s.dropPulses := hports s _ _ _ _ _ hp
  have hline (bs : List Byte) (rest : List Input) :
      P (State.receive bs { s.dropPulses with inputs := rest, pend := Lines.clear }) :=
    (takeBytes_keeps (P := fun u => u.Sequenced ∧ P u)
      (fun _ _ ⟨hs, hp⟩ => ⟨hs.congr hs.latched, hports _ _ _ _ _ _ hp⟩)
      (fun _ ⟨hs, hp⟩ => ⟨hs.congr hs.latched, hports _ _ _ _ _ _ hp⟩)
      (fun u x ⟨hs, hp⟩ hop =>
        have hm := rxByte_moves (x := x) hs hop
        ⟨hs.byteMoves hm, hbyte u x _ hp hm⟩)
      _ _ ⟨hs.congr (by simp [Lines.clear]), hports s _ _ _ _ _ hp⟩).2
  cases step_moves h with
  | reset hrst => exact .inl ⟨hrst, rfl⟩
  | xportErr => exact .inr (hxport _ (hports s _ _ _ _ _ hp))
  | rxByte x rest =>
    have hu : State.Sequenced { s.dropPulses with pend := { s.pend with rxValid := false }, rx := rest } :=
      hs.congr hs.latched
    exact .inr (hbyte _ x _ (hports s _ _ _ _ _ hp) (rxByte_moves hu hop))
  | timeout ha => exact .inr (htime _ _ hdrop (hs.armed ▸ ha) (onTimeout_moves ha))
  | command w hw => simp [hs.no_command hop] at hw
  | wait => exact .inr hdrop
  | line bs _ rest => exact .inr (hline bs rest)
  | input m rest _ _ ht =>
    by_cases hm : ∃ bs, m = .line bs
    · obtain ⟨bs, rfl⟩ := hm
      cases ht
      exact .inr (hline bs rest)
    · exact .inr (hinput _ _ (hports s _ _ _ _ _ hp) (applyInput_moves (fun bs hb => hm ⟨bs, hb⟩) ht))

/-! ## READ (R177, R184) -/

/-- A READ that began its step with RETRY at r: it goes on, or has ended in one of its two ways. -/
structure State.InRead (r : Nat) (s : State) : Prop where
  retry : s.retry = r
  position : s.op.reads = true ∨ s.op = .idle ∧ (s.result = .ok ∨ s.result = .transportError)

namespace State.InRead

variable {r : Nat} {s t : State}

/-- No position of a READ has the timer armed (R33). -/
theorem not_timed (h : s.InRead r) : s.op.timed = false := by
  rcases h.position with hop | ⟨hop, -⟩
  · rcases Op.reads_iff.mp hop with hop | hop <;> rw [hop] <;> rfl
  · rw [hop]; rfl

theorem congr (h : s.InRead r) (hretry : t.retry = s.retry := by rfl) (hop : t.op = s.op := by rfl)
    (hresult : t.result = s.result := by rfl) : t.InRead r := by
  refine ⟨hretry.trans h.retry, ?_⟩
  rw [hop, hresult]
  exact h.position

theorem onXportErr (h : s.InRead r) : s.onXportErr.InRead r := by
  obtain ⟨-, heq⟩ | ⟨-, heq⟩ := onXportErr_cases s <;> rw [heq]
  · exact h
  · exact ⟨h.retry, .inr ⟨rfl, .inr rfl⟩⟩

theorem byteMoves (h : s.InRead r) {x : Byte} (hm : s.ByteMoves x t) : t.InRead r := by
  have huntimed := h.not_timed
  cases hm with
  | bodyByte | fsm => exact h.congr
  | bodyAccepted => exact ⟨by simp [h.retry], .inr ⟨by simp, .inl (by simp)⟩⟩
  | bodyRejected | header => exact ⟨by simp [h.retry], .inl (by simp [Op.reads])⟩
  | openSet hop | openUa hop | closeDisc hop | closeUa hop | acknowledged hop | rejected hop =>
    simp [hop, Op.timed] at huntimed

theorem inputMoves (h : s.InRead r) (hm : s.InputMoves t) : t.InRead r := by
  cases hm <;> exact h.congr

end State.InRead

/-- Settles O49: what every move of a READ keeps, with the timer by Sequenced and `done` by the rule of the end. -/
theorem readUnbounded : Obligations.ReadUnbounded := by
  unfold Obligations.ReadUnbounded
  intro s t hs hop h hrst
  have hne : s.op ≠ .idle := by rcases hop with hop | hop <;> simp [hop]
  have hstart : s.InRead s.retry := ⟨rfl, .inl (Op.reads_iff.mpr hop)⟩
  have hkeep := step_keeps_of_running (P := State.InRead s.retry)
    (hports := fun _ _ _ _ _ _ hp => hp.congr)
    (hxport := fun _ hp => hp.onXportErr)
    (hbyte := fun _ _ _ hp hm => hp.byteMoves hm)
    (htime := fun _ _ hp htimed => by simp [hp.not_timed] at htimed)
    (hinput := fun _ _ hp hm => hp.inputMoves hm) h hs hne hstart
  have hread : t.InRead s.retry := hkeep.resolve_left (by simp [hrst])
  refine ⟨hread.retry, (sequencedKept s t hs h).armed.trans hread.not_timed, ?_⟩
  rcases hread.position with hreads | ⟨hidle, hresult⟩
  · exact (Op.reads_iff.mp hreads).imp_right .inl
  · obtain ⟨-, hpulses, -⟩ := finishLeaves s t hs h
    exact .inr (.inr ⟨hidle, hpulses hrst hne hidle, hresult⟩)

/-! ## The bound of the timed operations in ticks (R185, R188, R272) -/

/-- From s to t a timed operation has gone on, within its budget and with no more ticks left to it. -/
structure State.Waits (s t : State) : Prop where
  op : t.op = s.op
  numTries : t.numTries = s.numTries
  timeOut : t.timeOut = s.timeOut
  build : t.build = s.build
  attempt : t.retry ≤ s.numTries
  left : t.ticksLeft ≤ s.ticksLeft

/-- R188: one more attempt takes what one TIME_OUT is worth from the attempts left. -/
theorem ticks_of_next_attempt {tries retry : Nat} (timeOut : Nat) (h : retry + 1 ≤ tries) :
    (tries - (retry + 1)) * timeOut + timeOut = (tries - retry) * timeOut := by
  rw [← Nat.succ_mul]
  congr 1
  omega

namespace State.Waits

variable {s t u : State}

/-- A move in which RETRY stays and TMR does not rise. -/
theorem same_attempt (h : s.Waits t) (hop : u.op = t.op := by simp) (hnum : u.numTries = t.numTries := by simp)
    (hto : u.timeOut = t.timeOut := by simp) (hbuild : u.build = t.build := by simp)
    (hretry : u.retry = t.retry := by simp) (htmr : u.tmr ≤ t.tmr := by simp) : s.Waits u where
  op := hop.trans h.op
  numTries := hnum.trans h.numTries
  timeOut := hto.trans h.timeOut
  build := hbuild.trans h.build
  attempt := hretry ▸ h.attempt
  left := by
    refine le_trans ?_ h.left
    rw [State.ticksLeft, State.ticksLeft, hnum, hto, hretry]
    omega

/-- R175, R176, R188: an attempt that fails and is followed by another: RETRY rises, which does not wrap within the budget,
and TMR starts again from TIME_OUT. -/
theorem next_attempt (h : s.Waits t) (hwidth : s.numTries < 2 ^ s.build.triesW) (hin : u.retry ≤ u.numTries)
    (hop : u.op = t.op := by simp) (hnum : u.numTries = t.numTries := by simp)
    (hto : u.timeOut = t.timeOut := by simp) (hbuild : u.build = t.build := by simp)
    (hretry : u.retry = (t.retry + 1) % 2 ^ (t.build.triesW + 1) := by simp)
    (htmr : u.tmr = t.timeOut := by simp) : s.Waits u := by
  have hattempt := h.attempt
  have hlt : t.retry + 1 < 2 ^ (t.build.triesW + 1) := by rw [h.build, Nat.pow_succ]; omega
  rw [Nat.mod_eq_of_lt hlt] at hretry
  rw [hretry, hnum] at hin
  refine ⟨hop.trans h.op, hnum.trans h.numTries, hto.trans h.timeOut, hbuild.trans h.build, ?_, ?_⟩
  · rw [hretry, ← h.numTries]
    exact hin
  · calc u.ticksLeft = (t.numTries - t.retry) * t.timeOut := by
          rw [State.ticksLeft, hnum, hto, hretry, htmr, ticks_of_next_attempt t.timeOut hin]
      _ ≤ t.ticksLeft := Nat.le_add_right _ _
      _ ≤ s.ticksLeft := h.left

theorem byteMoves (h : s.Waits t) (hwidth : s.numTries < 2 ^ s.build.triesW) (htimed : s.op.timed = true) {x : Byte}
    (hm : t.ByteMoves x u) : u.op = .idle ∨ s.Waits u := by
  rw [← h.op] at htimed
  cases hm with
  | fsm => exact .inr h.same_attempt
  | openSet | openUa | closeDisc | closeUa | acknowledged => exact .inl (by simp)
  | rejected =>
    obtain heq | ⟨hx, heq⟩ := writeRejected_cases (t.stepped x) <;> rw [heq]
    · exact .inl rfl
    · rw [State.exhausted_eq_false_iff] at hx
      exact .inr (h.next_attempt hwidth (by simpa using hx))
  | bodyByte hop | bodyAccepted hop | bodyRejected hop | header hop => simp [hop, Op.timed] at htimed

theorem timeoutMoves (h : s.Waits t) (hwidth : s.numTries < 2 ^ s.build.triesW) (htimed : t.op.timed = true)
    (hm : t.TimeoutMoves u) : u.op = .idle ∨ s.Waits u := by
  cases hm with
  | unreached hop => simp [htimed] at hop
  | openFails | writeFails | closeFails => exact .inl rfl
  | openRetries _ hx | writeRetries _ hx | closeRetries _ hx =>
    rw [State.exhausted_eq_false_iff] at hx
    exact .inr (h.next_attempt hwidth (by simpa using hx))

theorem inputMoves (h : s.Waits t) (hm : t.InputMoves u) : s.Waits u := by
  cases hm with
  | instant _ _ _ htmr => exact h.same_attempt (htmr := htmr)
  | regWrite | txbufWrite | read | txTake => exact h.same_attempt

end State.Waits

theorem Op.ne_idle_of_timed {o : Op} (h : o.timed = true) : o ≠ .idle := by
  rintro rfl
  simp [Op.timed] at h

/-- R61: a byte is taken only while OP is not Idle. -/
theorem State.ByteMoves.op_ne_idle {x : Byte} {s t : State} (hm : s.ByteMoves x t) : s.op ≠ .idle := by
  cases hm with
  | fsm hop => exact fun hidle => by simp [hidle, Op.runsFsm] at hop
  | bodyByte hop | bodyAccepted hop | bodyRejected hop | openSet hop | openUa hop | closeDisc hop | closeUa hop
  | acknowledged hop | rejected hop | header hop => simp [hop]

theorem State.InputMoves.op_eq {s t : State} (hm : s.InputMoves t) : t.op = s.op := by cases hm <;> rfl

theorem onXportErr_op (s : State) : s.onXportErr.op = .idle := by
  obtain ⟨hop, heq⟩ | ⟨-, heq⟩ := onXportErr_cases s <;> rw [heq]
  · exact hop
  · rfl

/-- A step ends a timed operation, or lets it go on with no more ticks left to it. -/
theorem step_waits {s t : State} (hs : s.Sequenced) (hb : s.Budgeted) (hw : s.InWidth) (htimed : s.op.timed = true)
    (h : step s = .next t) : t.op = .idle ∨ s.Waits t := by
  have hrefl : s.Waits s := ⟨rfl, rfl, rfl, rfl, hb.attempt htimed, le_rfl⟩
  have hkeep := step_keeps_of_running (P := fun u => u.op = .idle ∨ s.Waits u)
    (hports := fun _ _ _ _ _ _ hp => hp.imp id fun h => h.same_attempt rfl rfl rfl rfl rfl le_rfl)
    (hxport := fun u _ => .inl (onXportErr_op u))
    (hbyte := fun _ _ _ hp hm => (hp.resolve_left hm.op_ne_idle).byteMoves hw.numTries htimed hm)
    (htime := fun _ _ hp htimed hm =>
      (hp.resolve_left (Op.ne_idle_of_timed htimed)).timeoutMoves hw.numTries htimed hm)
    (hinput := fun _ _ hp hm => hp.imp hm.op_eq.trans fun h => h.inputMoves hm) h hs (Op.ne_idle_of_timed htimed)
    (.inr hrefl)
  exact hkeep.elim (fun hreset => .inl hreset.2) id

/-- What a tick is: with no event ready, an instant of the environment with a pulse (R185; log 3). -/
theorem ticked_cases (s : State) : s.ticked = 0 ∨ s.ticked = 1 ∧ s.Quiet ∧
    ∃ rst xportErr arrive rxValid cmd rest, s.inputs = .instant rst xportErr arrive rxValid true cmd :: rest := by
  unfold State.ticked
  split
  · next he hi => exact .inr ⟨rfl, quiet_of_readyEvent he, _, _, _, _, _, _, hi⟩
  · exact .inl rfl

/-- R272: a tick takes one from the ticks left to the operation, and no other step adds to them. -/
theorem ticked_add_ticksLeft_le {s t : State} (hs : s.Sequenced) (hb : s.Budgeted) (hw : s.InWidth)
    (htimed : s.op.timed = true) (h : step s = .next t) (hop : t.op = s.op) : s.ticked + t.ticksLeft ≤ s.ticksLeft := by
  obtain hno | ⟨hone, hq, rst, xportErr, arrive, rxValid, cmd, rest, hi⟩ := ticked_cases s
  · have hwaits := (step_waits hs hb hw htimed h).resolve_left (hop ▸ Op.ne_idle_of_timed htimed)
    rw [hno, Nat.zero_add]
    exact hwaits.left
  · have ha : s.tarmed = true := hs.armed.trans htimed
    have hpos : s.tmr ≠ 0 := hq.noTimeout.resolve_left (by simp [ha])
    rw [instantRaisesEvents s rst xportErr arrive rxValid true cmd rest hq hi] at h
    cases h
    simp only [hone, State.ticksLeft, State.afterMove, ha, and_self, if_true]
    omega

/-- R272, by induction on the steps: the ticks of a timed operation are at most those left to it. -/
theorem ticksIn_le_ticksLeft {o : Op} (htimed : o.timed = true) : ∀ (k : Nat) {s : State}, s.Sequenced → s.Budgeted →
    s.InWidth → s.staysIn o k → s.ticksIn k ≤ s.ticksLeft
  | 0, _, _, _, _, _ => Nat.zero_le _
  | k + 1, s, hs, hb, hw, hstays => by
    obtain ⟨rfl, hnext⟩ := hstays
    cases h : step s with
    | fault r => cases r
    | refused r => simp [h] at hnext
    | next t =>
      rw [h] at hnext
      have hop : t.op = s.op := by
        cases k with
        | zero => exact hnext
        | succ k => exact hnext.1
      have hrest := ticksIn_le_ticksLeft htimed k (sequencedKept s t hs h) (budgetedKept s t hs hb h)
        (inWidthKept s t hw h) hnext
      have hstep := ticked_add_ticksLeft_le hs hb hw htimed h hop
      simp only [State.ticksIn, h]
      omega

/-- Settles O52: the step lemma is the first clause, and at acceptance the ticks left are (NUM_TRIES + 1) * TIME_OUT. -/
theorem operationBound : Obligations.OperationBound := by
  unfold Obligations.OperationBound
  refine ⟨fun s t hs hb hw htimed h hop => ticked_add_ticksLeft_le hs hb hw htimed h hop,
    fun s k hs hb hw htimed hretry htmr hstays => ?_⟩
  calc s.ticksIn k ≤ s.ticksLeft := ticksIn_le_ticksLeft htimed k hs hb hw hstays
    _ = (s.numTries + 1) * s.timeOut := by rw [State.ticksLeft, hretry, htmr, Nat.sub_zero, Nat.succ_mul]

/-! ## The timer's rows (R186, R187, R189, R228) -/

/-- R228: Timeout is not enabled while TARMED is 0. -/
theorem onTimeout_of_disarmed {s : State} (ha : s.tarmed = false) : s.onTimeout = s := if_neg (by simp [ha])

/-- Where no timed operation is in progress a Timeout lets the timer fall only (log 19). -/
theorem onTimeout_of_not_timed {s : State} (ha : s.tarmed = true) (hop : s.op.timed = false) :
    s.onTimeout = s.expire := by
  have hm := onTimeout_moves ha
  generalize s.onTimeout = t at hm ⊢
  cases hm with
  | unreached => rfl
  | openFails h | writeFails h | closeFails h | openRetries h | writeRetries h | closeRetries h =>
    simp [h, Op.timed] at hop

/-- Settles O29, row by row. -/
theorem timerOperations : Obligations.TimerOperations := by
  unfold Obligations.TimerOperations
  refine fun s => ⟨rfl, rfl, fun ha => ?_, fun ha hop => ?_⟩
  · exact congrArg Host.Outcome.next (onTimeout_of_disarmed ha)
  · have huntimed : s.op.timed = false := by rcases hop with hop | hop | hop <;> rw [hop] <;> rfl
    exact congrArg Host.Outcome.next (onTimeout_of_not_timed ha huntimed)

end Sys2Proof.Machine
end

section
/-! PROOFS. Family 60_exceptions: a write of CMD while an operation is in progress (O22), and the transport error (O32). -/

namespace Sys2Proof.Machine

/-! ## CMD while an operation is in progress (R237) -/

/-- R237: while an operation is in progress a command word runs as nothing. -/
theorem State.command_of_busy {s : State} (hop : s.op ≠ .idle) (w : Nat) : s.command w = s :=
  if_pos (by simpa [State.busy] using hop)

/-- Settles O22: the word run as an instruction does nothing, and by the register map (O40) its write leaves CMD empty. -/
theorem commandsNotTakenWhileBusy : Obligations.CommandsNotTakenWhileBusy := by
  unfold Obligations.CommandsNotTakenWhileBusy
  refine fun s w hop => ⟨?_, fun rest hq hi => ?_⟩
  · rw [exec_decodeCommand, State.command_of_busy hop]
  · have hnone : ¬(0 = 0 ∧ s.op = .idle) := fun h => hop h.2
    rw [(registerAccess s 0 rest hq).2 w hi, if_neg hnone]
    rfl

/-! ## The transport error (R228, R232) -/

/-- Settles O32, by the two cases of the event: lost while OP is Idle, else the end of the operation. -/
theorem transportErrorEnds : Obligations.TransportErrorEnds := by
  unfold Obligations.TransportErrorEnds
  intro s
  obtain ⟨hidle, heq⟩ | ⟨hbusy, heq⟩ := onXportErr_cases s
  · exact ⟨fun hop => absurd hidle hop, fun _ => congrArg Host.Outcome.next heq⟩
  · exact ⟨fun _ => congrArg Host.Outcome.next heq, fun hop => absurd hop hbusy⟩

end Sys2Proof.Machine
end
